-- ==== Sys2Proof/Word.lean ====
section
/-! DEFINITION. The word types of the machine (spec/00_scope.md R4, R7). All values are unsigned. -/

namespace Sys2Proof

/-- An 8-bit value: a general register, a memory byte, a timer (R4: REG_W, TIMER_W). -/
abbrev Byte := BitVec 8

/-- A 16-bit value: an instruction word, PC, I, a return address (R4: INSN_W, PC_W, I_W, STACK_W). -/
abbrev Word := BitVec 16

/-- A 12-bit address immediate, the field nnn (spec/30_encoding.md R62). -/
abbrev Addr12 := BitVec 12

/-- The index of a general register V[0x0]..V[0xF] (spec/10_state.md R12), also of WAIT's register. -/
abbrev RegIdx := Fin 16

/-- The number of a key 0x0..0xF (spec/10_state.md R23). -/
abbrev KeyIdx := Fin 16

end Sys2Proof
end

