-- ==== Sys2Proof/Syntax.lean ====
section
/-! DEFINITION. The instructions as data: one constructor per row of spec/opcode_table.json, in the order of the table of
spec/30_encoding.md R70. -/

namespace Sys2Proof

/-- The 35 instructions (spec/30_encoding.md R70). Operands are the fields of R62: `x`, `y` register indices, `kk` a byte,
`nnn` a 12-bit address, `n` a row count (0..15 in a well-formed instruction). -/
inductive Instr where
  /-- 00E0 CLS, R150 -/
  | cls
  /-- 00EE RET, R101 -/
  | ret
  /-- 1nnn JP nnn, R102 -/
  | jp (nnn : Addr12)
  /-- 2nnn CALL nnn, R103 -/
  | call (nnn : Addr12)
  /-- 3xkk SE Vx, kk, R110 -/
  | seKk (x : RegIdx) (kk : Byte)
  /-- 4xkk SNE Vx, kk, R111 -/
  | sneKk (x : RegIdx) (kk : Byte)
  /-- 5xy0 SE Vx, Vy, R112 -/
  | seV (x y : RegIdx)
  /-- 6xkk LD Vx, kk, R122 -/
  | ldKk (x : RegIdx) (kk : Byte)
  /-- 7xkk ADD Vx, kk, R123 -/
  | addKk (x : RegIdx) (kk : Byte)
  /-- 8xy0 LD Vx, Vy, R124 -/
  | ldV (x y : RegIdx)
  /-- 8xy1 OR Vx, Vy, R125 -/
  | orV (x y : RegIdx)
  /-- 8xy2 AND Vx, Vy, R126 -/
  | andV (x y : RegIdx)
  /-- 8xy3 XOR Vx, Vy, R127 -/
  | xorV (x y : RegIdx)
  /-- 8xy4 ADD Vx, Vy, R128 -/
  | addV (x y : RegIdx)
  /-- 8xy5 SUB Vx, Vy, R129 -/
  | subV (x y : RegIdx)
  /-- 8xy6 SHR Vx, R130; `y` is decoded and not used (R73) -/
  | shr (x y : RegIdx)
  /-- 8xy7 SUBN Vx, Vy, R131 -/
  | subnV (x y : RegIdx)
  /-- 8xyE SHL Vx, R132; `y` is decoded and not used (R73) -/
  | shl (x y : RegIdx)
  /-- 9xy0 SNE Vx, Vy, R113 -/
  | sneV (x y : RegIdx)
  /-- Annn LD I, nnn, R140 -/
  | ldI (nnn : Addr12)
  /-- Bnnn JP V0, nnn, R104 -/
  | jpV0 (nnn : Addr12)
  /-- Cxkk RND Vx, kk, R133 -/
  | rnd (x : RegIdx) (kk : Byte)
  /-- Dxyn DRW Vx, Vy, n, R151 -/
  | drw (x y : RegIdx) (n : Nat)
  /-- Ex9E SKP Vx, R160 -/
  | skp (x : RegIdx)
  /-- ExA1 SKNP Vx, R161 -/
  | sknp (x : RegIdx)
  /-- Fx07 LD Vx, DT, R163 -/
  | ldVxDT (x : RegIdx)
  /-- Fx0A LD Vx, K, R162 -/
  | ldVxK (x : RegIdx)
  /-- Fx15 LD DT, Vx, R164 -/
  | ldDTVx (x : RegIdx)
  /-- Fx18 LD ST, Vx, R165 -/
  | ldSTVx (x : RegIdx)
  /-- Fx1E ADD I, Vx, R141 -/
  | addI (x : RegIdx)
  /-- Fx29 LD F, Vx, R142 -/
  | ldF (x : RegIdx)
  /-- Fx33 LD B, Vx, R143 -/
  | ldB (x : RegIdx)
  /-- Fx55 LD [I], Vx, R144 -/
  | stRegs (x : RegIdx)
  /-- Fx65 LD Vx, [I], R145 -/
  | ldRegs (x : RegIdx)
  /-- 0000 NOP, R100 -/
  | nop
  deriving DecidableEq, Repr

end Sys2Proof
end

