-- ==== Sys2Proof/WellFormed.lean ====
section
/-! DEFINITION. Which terms of Instr are instructions of the hardware. The types already bound the fields x, y (4 bits),
kk (8 bits) and nnn (12 bits) of spec/30_encoding.md R62; the row count n of Dxyn is a number, and its bound is the check. -/

namespace Sys2Proof

/-- The field n has four bits, so a row count is 0..15 (spec/30_encoding.md R62). -/
def rowCountFits (n : Nat) : Bool := n ≤ 15

/-- The instruction has an encoding: every operand fits its field (assumption log 18). -/
def Instr.wellFormed : Instr → Bool
  | .drw _ _ n => rowCountFits n
  | .cls | .ret | .nop => true
  | .jp _ | .call _ | .ldI _ | .jpV0 _ => true
  | .seKk _ _ | .sneKk _ _ | .ldKk _ _ | .addKk _ _ | .rnd _ _ => true
  | .seV _ _ | .sneV _ _ | .ldV _ _ | .orV _ _ | .andV _ _ | .xorV _ _ => true
  | .addV _ _ | .subV _ _ | .shr _ _ | .subnV _ _ | .shl _ _ => true
  | .skp _ | .sknp _ | .ldVxDT _ | .ldVxK _ | .ldDTVx _ | .ldSTVx _ => true
  | .addI _ | .ldF _ | .ldB _ | .stRegs _ | .ldRegs _ => true

end Sys2Proof
end

