-- ==== Sys2Proof/Decode.lean ====
section
/-! DEFINITION. The decoder, total on every word and on any bytes (spec/30_encoding.md R60 to R73), the encoder written from
the same formats (R63), and the opcode table of R70 as a list of masks and patterns. -/

namespace Sys2Proof

/-! ## The fields of a word (R61, R62) -/

/-- d1 = op[15:12], the instruction class (R61). -/
def opClass (op : Word) : BitVec 4 := op.extractLsb' 12 4

/-- x = op[11:8] (R62). -/
def fieldX (op : Word) : RegIdx := (op.extractLsb' 8 4).toFin

/-- y = op[7:4] (R62). -/
def fieldY (op : Word) : RegIdx := (op.extractLsb' 4 4).toFin

/-- The low nibble op[3:0], the selector of the classes 5, 8 and 9 (R61). -/
def selector (op : Word) : BitVec 4 := op.extractLsb' 0 4

/-- n = op[3:0] as a row count (R62). -/
def fieldN (op : Word) : Nat := (selector op).toNat

/-- kk = op[7:0] (R62). -/
def fieldKk (op : Word) : Byte := op.extractLsb' 0 8

/-- nnn = op[11:0] (R62). -/
def fieldNnn (op : Word) : Addr12 := op.extractLsb' 0 12

/-! ## Dispatch on the word (R69) -/

/-- Class 0: three single words, format FIXED; every other word of the class is illegal (R69, R71). -/
def decodeClass0 (op : Word) : Option Instr :=
  if op = 0x0000 then some .nop
  else if op = 0x00E0 then some .cls
  else if op = 0x00EE then some .ret
  else none

/-- Class 8, format XY, by the low nibble (R69). -/
def decodeClass8 (x y : RegIdx) (sel : BitVec 4) : Option Instr :=
  if sel = 0x0 then some (.ldV x y)
  else if sel = 0x1 then some (.orV x y)
  else if sel = 0x2 then some (.andV x y)
  else if sel = 0x3 then some (.xorV x y)
  else if sel = 0x4 then some (.addV x y)
  else if sel = 0x5 then some (.subV x y)
  else if sel = 0x6 then some (.shr x y)
  else if sel = 0x7 then some (.subnV x y)
  else if sel = 0xE then some (.shl x y)
  else none

/-- Class E, format X, by the low byte (R69). -/
def decodeClassE (x : RegIdx) (kk : Byte) : Option Instr :=
  if kk = 0x9E then some (.skp x)
  else if kk = 0xA1 then some (.sknp x)
  else none

/-- Class F, format X, by the low byte (R69). -/
def decodeClassF (x : RegIdx) (kk : Byte) : Option Instr :=
  if kk = 0x07 then some (.ldVxDT x)
  else if kk = 0x0A then some (.ldVxK x)
  else if kk = 0x15 then some (.ldDTVx x)
  else if kk = 0x18 then some (.ldSTVx x)
  else if kk = 0x1E then some (.addI x)
  else if kk = 0x29 then some (.ldF x)
  else if kk = 0x33 then some (.ldB x)
  else if kk = 0x55 then some (.stRegs x)
  else if kk = 0x65 then some (.ldRegs x)
  else none

/-- The decoder: a function of the word alone, total on all 65536 words; `none` is an illegal word (R69, R71). -/
def decodeWord (op : Word) : Option Instr :=
  match (opClass op).toNat with
  | 0x0 => decodeClass0 op
  | 0x1 => some (.jp (fieldNnn op))
  | 0x2 => some (.call (fieldNnn op))
  | 0x3 => some (.seKk (fieldX op) (fieldKk op))
  | 0x4 => some (.sneKk (fieldX op) (fieldKk op))
  | 0x5 => if selector op = 0 then some (.seV (fieldX op) (fieldY op)) else none
  | 0x6 => some (.ldKk (fieldX op) (fieldKk op))
  | 0x7 => some (.addKk (fieldX op) (fieldKk op))
  | 0x8 => decodeClass8 (fieldX op) (fieldY op) (selector op)
  | 0x9 => if selector op = 0 then some (.sneV (fieldX op) (fieldY op)) else none
  | 0xA => some (.ldI (fieldNnn op))
  | 0xB => some (.jpV0 (fieldNnn op))
  | 0xC => some (.rnd (fieldX op) (fieldKk op))
  | 0xD => some (.drw (fieldX op) (fieldY op) (fieldN op))
  | 0xE => decodeClassE (fieldX op) (fieldKk op)
  | _ => decodeClassF (fieldX op) (fieldKk op)

/-! ## Bytes (R60, spec/20_memory.md R48) -/

/-- Two bytes as an instruction word, the first byte the high one (spec/20_memory.md R48). -/
def wordOfBytes (high low : Byte) : Word := high ++ low

/-- The byte a word has at its lower address (spec/20_memory.md R48). -/
def highByte (op : Word) : Byte := op.extractLsb' 8 8

/-- The byte a word has at its higher address (spec/20_memory.md R48). -/
def lowByte (op : Word) : Byte := op.extractLsb' 0 8

/-- Why a list of bytes holds no instruction at its front. -/
inductive DecodeError where
  /-- fewer than two bytes: no whole word (R60) -/
  | tooShort
  /-- the word is illegal (R71); it carries the word (spec/60_exceptions.md R202) -/
  | unknownOpcode (op : Word)
  deriving DecidableEq, Repr

/-- Decode the instruction at the front of any list of bytes, with the bytes after it, or say by name why there is none. -/
def decode : List Byte → Except DecodeError (Instr × List Byte)
  | high :: low :: rest =>
    match decodeWord (wordOfBytes high low) with
    | some i => .ok (i, rest)
    | none => .error (.unknownOpcode (wordOfBytes high low))
  | _ => .error .tooShort

/-- What the decoder reads from a word numbered as spec/opcode_table.json numbers it (bit 0 the least significant bit of the
one 16-bit word), bits at and above `nbits` zero: the word is laid out high byte first (spec/20_memory.md R48) and decoded. -/
def decodeTableWord (nbits w : Nat) : Option Instr :=
  let op := BitVec.ofNat 16 (w % 2 ^ nbits)
  match decode [highByte op, lowByte op] with
  | .ok (i, _) => some i
  | .error _ => none

/-! ## The encoder (R63) -/

/-- The four bits of a register field (R62). -/
def regBits (x : RegIdx) : BitVec 4 := BitVec.ofFin x

/-- Format NNN: class, nnn (R63). -/
def formatNNN (cls : BitVec 4) (nnn : Addr12) : Word := cls ++ nnn

/-- Format XKK: class, x, kk (R63). -/
def formatXKK (cls : BitVec 4) (x : RegIdx) (kk : Byte) : Word := cls ++ (regBits x ++ kk)

/-- Format XY: class, x, y, selector (R63). -/
def formatXY (cls : BitVec 4) (x y : RegIdx) (sel : BitVec 4) : Word := cls ++ (regBits x ++ (regBits y ++ sel))

/-- The word of a well-formed instruction (R63, R70). -/
def encode : Instr → Word
  | .cls => 0x00E0
  | .ret => 0x00EE
  | .jp nnn => formatNNN 0x1 nnn
  | .call nnn => formatNNN 0x2 nnn
  | .seKk x kk => formatXKK 0x3 x kk
  | .sneKk x kk => formatXKK 0x4 x kk
  | .seV x y => formatXY 0x5 x y 0x0
  | .ldKk x kk => formatXKK 0x6 x kk
  | .addKk x kk => formatXKK 0x7 x kk
  | .ldV x y => formatXY 0x8 x y 0x0
  | .orV x y => formatXY 0x8 x y 0x1
  | .andV x y => formatXY 0x8 x y 0x2
  | .xorV x y => formatXY 0x8 x y 0x3
  | .addV x y => formatXY 0x8 x y 0x4
  | .subV x y => formatXY 0x8 x y 0x5
  | .shr x y => formatXY 0x8 x y 0x6
  | .subnV x y => formatXY 0x8 x y 0x7
  | .shl x y => formatXY 0x8 x y 0xE
  | .sneV x y => formatXY 0x9 x y 0x0
  | .ldI nnn => formatNNN 0xA nnn
  | .jpV0 nnn => formatNNN 0xB nnn
  | .rnd x kk => formatXKK 0xC x kk
  | .drw x y n => formatXY 0xD x y (BitVec.ofNat 4 n)
  | .skp x => formatXKK 0xE x 0x9E
  | .sknp x => formatXKK 0xE x 0xA1
  | .ldVxDT x => formatXKK 0xF x 0x07
  | .ldVxK x => formatXKK 0xF x 0x0A
  | .ldDTVx x => formatXKK 0xF x 0x15
  | .ldSTVx x => formatXKK 0xF x 0x18
  | .addI x => formatXKK 0xF x 0x1E
  | .ldF x => formatXKK 0xF x 0x29
  | .ldB x => formatXKK 0xF x 0x33
  | .stRegs x => formatXKK 0xF x 0x55
  | .ldRegs x => formatXKK 0xF x 0x65
  | .nop => 0x0000

/-! ## The opcode table as data (R70) -/

/-- One row of the table of R70: a word `op` is the instruction exactly when `op AND mask = pattern`. -/
structure OpcodeRow where
  mnemonic : String
  mask : Word
  pattern : Word
  deriving DecidableEq, Repr

/-- The word is the row's instruction (R70). -/
def OpcodeRow.covers (r : OpcodeRow) (op : Word) : Bool := op &&& r.mask == r.pattern

/-- The row an instruction belongs to (R70; mnemonics as spec/opcode_table.json spells them). -/
def Instr.row : Instr → OpcodeRow
  | .cls => ⟨"CLS", 0xFFFF, 0x00E0⟩
  | .ret => ⟨"RET", 0xFFFF, 0x00EE⟩
  | .jp _ => ⟨"JP_nnn", 0xF000, 0x1000⟩
  | .call _ => ⟨"CALL_nnn", 0xF000, 0x2000⟩
  | .seKk _ _ => ⟨"SE_Vx__kk", 0xF000, 0x3000⟩
  | .sneKk _ _ => ⟨"SNE_Vx__kk", 0xF000, 0x4000⟩
  | .seV _ _ => ⟨"SE_Vx__Vy", 0xF00F, 0x5000⟩
  | .ldKk _ _ => ⟨"LD_Vx__kk", 0xF000, 0x6000⟩
  | .addKk _ _ => ⟨"ADD_Vx__kk", 0xF000, 0x7000⟩
  | .ldV _ _ => ⟨"LD_Vx__Vy", 0xF00F, 0x8000⟩
  | .orV _ _ => ⟨"OR_Vx__Vy", 0xF00F, 0x8001⟩
  | .andV _ _ => ⟨"AND_Vx__Vy", 0xF00F, 0x8002⟩
  | .xorV _ _ => ⟨"XOR_Vx__Vy", 0xF00F, 0x8003⟩
  | .addV _ _ => ⟨"ADD_Vx__Vy", 0xF00F, 0x8004⟩
  | .subV _ _ => ⟨"SUB_Vx__Vy", 0xF00F, 0x8005⟩
  | .shr _ _ => ⟨"SHR_Vx", 0xF00F, 0x8006⟩
  | .subnV _ _ => ⟨"SUBN_Vx__Vy", 0xF00F, 0x8007⟩
  | .shl _ _ => ⟨"SHL_Vx", 0xF00F, 0x800E⟩
  | .sneV _ _ => ⟨"SNE_Vx__Vy", 0xF00F, 0x9000⟩
  | .ldI _ => ⟨"LD_I__nnn", 0xF000, 0xA000⟩
  | .jpV0 _ => ⟨"JP_V0__nnn", 0xF000, 0xB000⟩
  | .rnd _ _ => ⟨"RND_Vx__kk", 0xF000, 0xC000⟩
  | .drw _ _ _ => ⟨"DRW_Vx__Vy__n", 0xF000, 0xD000⟩
  | .skp _ => ⟨"SKP_Vx", 0xF0FF, 0xE09E⟩
  | .sknp _ => ⟨"SKNP_Vx", 0xF0FF, 0xE0A1⟩
  | .ldVxDT _ => ⟨"LD_Vx__DT", 0xF0FF, 0xF007⟩
  | .ldVxK _ => ⟨"LD_Vx__K", 0xF0FF, 0xF00A⟩
  | .ldDTVx _ => ⟨"LD_DT__Vx", 0xF0FF, 0xF015⟩
  | .ldSTVx _ => ⟨"LD_ST__Vx", 0xF0FF, 0xF018⟩
  | .addI _ => ⟨"ADD_I__Vx", 0xF0FF, 0xF01E⟩
  | .ldF _ => ⟨"LD_F__Vx", 0xF0FF, 0xF029⟩
  | .ldB _ => ⟨"LD_B__Vx", 0xF0FF, 0xF033⟩
  | .stRegs _ => ⟨"LD__I___Vx", 0xF0FF, 0xF055⟩
  | .ldRegs _ => ⟨"LD_Vx___I", 0xF0FF, 0xF065⟩
  | .nop => ⟨"NOP", 0xFFFF, 0x0000⟩

/-- One instruction of each row, in the table's order (R70). -/
def rowRepresentatives : List Instr :=
  [.cls, .ret, .jp 0, .call 0, .seKk 0 0, .sneKk 0 0, .seV 0 0, .ldKk 0 0, .addKk 0 0] ++
  [.ldV 0 0, .orV 0 0, .andV 0 0, .xorV 0 0, .addV 0 0, .subV 0 0, .shr 0 0, .subnV 0 0, .shl 0 0] ++
  [.sneV 0 0, .ldI 0, .jpV0 0, .rnd 0 0, .drw 0 0 0, .skp 0, .sknp 0, .ldVxDT 0, .ldVxK 0] ++
  [.ldDTVx 0, .ldSTVx 0, .addI 0, .ldF 0, .ldB 0, .stRegs 0, .ldRegs 0, .nop]

/-- The 35 rows of the opcode table (R70). -/
def opcodeTable : List OpcodeRow := rowRepresentatives.map Instr.row

end Sys2Proof
end

