-- ==== Sys2Proof/Config.lean ====
section
/-! DEFINITION. What the spec asks a model to take as an argument (spec/00_scope.md R5): the configuration FONT and
FX1E_SETS_VF, and the free input RAND. -/

namespace Sys2Proof

/-- The 80 bytes of the font table, 16 glyphs of 5 bytes (spec/10_state.md R20; R4: FONT_LEN, GLYPH_STRIDE). -/
abbrev Font := Vector Byte 80

/-- The configuration of one machine (spec/00_scope.md R5). Every statement about all states holds for every
configuration, since a state carries its own (assumption log 5). -/
structure Config where
  /-- FONT: what reset puts into MEM[0x000..0x04F] (spec/92_eei_decisions.md D14). -/
  font : Font
  /-- FX1E_SETS_VF: whether Fx1E writes V[0xF] (spec/43_index_memory.md R141, D12). -/
  fx1eSetsVF : Bool
  deriving DecidableEq, Repr

namespace Config

/-- The five bytes of one glyph, top row first (spec/10_state.md R20). -/
def glyph (r0 r1 r2 r3 r4 : Byte) : Vector Byte 5 := #v[r0, r1, r2, r3, r4]

/-- FONT's default, the table of spec/10_state.md R20, one glyph a line. PRESUMED: the spec marks the bytes as general
knowledge and not the source's (assumption log 2). -/
def defaultFont : Font :=
  glyph 0xF0 0x90 0x90 0x90 0xF0 ++
  glyph 0x20 0x60 0x20 0x20 0x70 ++
  glyph 0xF0 0x10 0xF0 0x80 0xF0 ++
  glyph 0xF0 0x10 0xF0 0x10 0xF0 ++
  glyph 0x90 0x90 0xF0 0x10 0x10 ++
  glyph 0xF0 0x80 0xF0 0x10 0xF0 ++
  glyph 0xF0 0x80 0xF0 0x90 0xF0 ++
  glyph 0xF0 0x10 0x20 0x40 0x40 ++
  glyph 0xF0 0x90 0xF0 0x90 0xF0 ++
  glyph 0xF0 0x90 0xF0 0x10 0xF0 ++
  glyph 0xF0 0x90 0xF0 0x90 0x90 ++
  glyph 0xE0 0x90 0xE0 0x90 0xE0 ++
  glyph 0xF0 0x80 0x80 0x80 0xF0 ++
  glyph 0xE0 0x90 0x90 0x90 0xE0 ++
  glyph 0xF0 0x80 0xF0 0x80 0xF0 ++
  glyph 0xF0 0x80 0xF0 0x80 0x80

/-- The defaults of spec/00_scope.md R5: FONT the table of R20, FX1E_SETS_VF false (assumption logs 2, 3). -/
def default : Config where
  font := defaultFont
  fx1eSetsVF := false

/-- RAND: the byte the k-th draw of the random source returns, a free value under no law (spec/60_exceptions.md R222,
D13; assumption log 4). It has no body: nothing can be proved of a draw but what holds of every byte. -/
opaque randByte : Nat → Byte

end Config

end Sys2Proof
end

