-- ==== Sys2Proof/Machine/State.lean ====
section
/-! DEFINITION. The state of the core as plain data (spec/10_state.md R10), the reasons a step can stop
(spec/60_exceptions.md R200), and the state after reset (spec/10_state.md R27). -/

namespace Sys2Proof.Machine

/-- MEM as the bytes that differ from what reset leaves there, by strictly rising address (assumption log 1). -/
abbrev Memory := List Host.Cell

/-- A column of the screen, 0..63 (spec/10_state.md R22). -/
abbrev Column := Fin 64

/-- A row of the screen, 0..31 (spec/10_state.md R22). -/
abbrev Row := Fin 32

/-- FB: 32 rows of 64 pixels each, pixel (c, r) being FB[r * 64 + c] (spec/10_state.md R22; assumption log 19). -/
abbrev Framebuffer := Vector (Vector Bool 64) 32

/-- All 2048 pixels off (spec/10_state.md R27, spec/44_display.md R150). -/
def blankScreen : Framebuffer := Vector.replicate 32 (Vector.replicate 64 false)

/-- The state (spec/10_state.md R10: exactly the first eleven fields). `cfg` and `draws` are the model's own
(assumption logs 4, 5). -/
structure State where
  /-- V[0x0]..V[0xF] (R12) -/
  v : Vector Byte 16
  /-- I (R17) -/
  i : Word
  /-- PC (R14) -/
  pc : Word
  /-- SP, the number of return addresses held, 0..16 (R18) -/
  sp : Fin 17
  /-- STACK[0]..STACK[15] (R21) -/
  stack : Vector Word 16
  /-- MEM (R24) -/
  mem : Memory
  /-- FB (R22) -/
  fb : Framebuffer
  /-- KEY[0x0]..KEY[0xF], true when pressed (R23) -/
  key : Vector Bool 16
  /-- DT (R19) -/
  dt : Byte
  /-- ST (R19) -/
  st : Byte
  /-- WAIT: the register a key is awaited for, if one is (R25) -/
  wait : Option RegIdx
  /-- the configuration, never changed (spec/00_scope.md R5; assumption log 5) -/
  cfg : Config
  /-- how many random bytes have been drawn (spec/60_exceptions.md R222; assumption log 4) -/
  draws : Nat
  deriving DecidableEq, Repr

/-- The five error outcomes (spec/60_exceptions.md R200, R208). A step that ends in one has no successor state
(R205): safe, since nothing can be claimed of a state after it. -/
inductive Fault where
  /-- a fetch or an indirect memory access beyond 0xFFF (R201); raised by the fetch, Dxyn, Fx33, Fx55, Fx65; safe -/
  | outOfBounds
  /-- a word that is no instruction, carried with the fault (R202); raised by the decoder; safe -/
  | unknownOpcode (op : Word)
  /-- a call with 16 return addresses held (R203); raised by 2nnn; safe -/
  | stackOverflow
  /-- a return with none held (R204); raised by 00EE; safe -/
  | stackUnderflow
  /-- a program image longer than 3584 bytes (R207); raised by the host operation load, never by a step; safe -/
  | loadError
  deriving DecidableEq, Repr

/-- What the model declines to say. No step of the machine is refused: every instruction has its meaning. -/
inductive Refusal where
  /-- an instruction with no meaning yet; raised by no arm of this model; safe -/
  | notModelled (mnemonic : String)
  /-- a host operation other than reset after a faulting step, on a state the spec leaves undefined
  (spec/60_exceptions.md R205, R213); raised by Session.apply; safe -/
  | undefinedAfterFault
  deriving DecidableEq, Repr

/-- The state reset leaves, for any configuration and any position in the random source (spec/10_state.md R27,
spec/70_reset_and_hazards.md R240). Memory lists nothing: an unlisted address reads as reset leaves it. -/
def State.powerOn (cfg : Config) (draws : Nat) : State where
  v := Vector.replicate 16 0
  i := 0
  pc := 0x200
  sp := 0
  stack := Vector.replicate 16 0
  mem := []
  fb := blankScreen
  key := Vector.replicate 16 false
  dt := 0
  st := 0
  wait := none
  cfg := cfg
  draws := draws

/-- The machine right after reset (spec/10_state.md R27) in the configuration of spec/00_scope.md R5's defaults. -/
def State.reset : State := State.powerOn Config.default 0

end Sys2Proof.Machine
end

