-- ==== Sys2Proof/Machine/Operands.lean ====
section
/-! DEFINITION. Operands: how a register field, a byte or an address immediate, the index register and the values computed
from them are read (spec/30_encoding.md R64). -/

namespace Sys2Proof.Machine

/-- V[x] (spec/10_state.md R12: no register is hardwired). -/
def State.getV (s : State) (x : RegIdx) : Byte := s.v[x.val]

/-- V[0]..V[x] inclusive, V[0] first (spec/43_index_memory.md R144). -/
def State.regsThrough (s : State) (x : RegIdx) : List Byte :=
  (List.range (x.val + 1)).map fun j => s.getV (Fin.ofNat 16 j)

/-- nnn zero-extended to the 16 bits of PC or I (spec/30_encoding.md R64). -/
def extendAddr (nnn : Addr12) : Word := nnn.setWidth 16

/-- The target of Bnnn, nnn + V[0], at most 0x10FE (spec/40_flow.md R104). -/
def offsetTarget (nnn : Addr12) (v0 : Byte) : Word := BitVec.ofNat 16 (nnn.toNat + v0.toNat)

/-- I + V[x] reduced modulo 4096 (spec/43_index_memory.md R141). -/
def indexSum (i : Word) (b : Byte) : Word := BitVec.ofNat 16 ((i.toNat + b.toNat) % 4096)

/-- The address of a digit's glyph, FONT_BASE + V[x] * 5 with all eight bits used (spec/43_index_memory.md R142, D29). -/
def glyphAddr (b : Byte) : Word := BitVec.ofNat 16 (b.toNat * 5)

/-- The decimal digits of a byte: hundreds, tens, ones (spec/43_index_memory.md R143). -/
def decimalDigits (b : Byte) : List Byte :=
  [BitVec.ofNat 8 (b.toNat / 100), BitVec.ofNat 8 (b.toNat / 10 % 10), BitVec.ofNat 8 (b.toNat % 10)]

/-- The key a register value selects, its low four bits (spec/45_keypad_timers.md R166, D21; assumption log 10). -/
def selectedKey (b : Byte) : KeyIdx := Fin.ofNat 16 b.toNat

/-- The column a draw starts at, V[x] mod 64 (spec/44_display.md R151). -/
def startColumn (b : Byte) : Nat := b.toNat % 64

/-- The row a draw starts at, V[y] mod 32 (spec/44_display.md R151). -/
def startRow (b : Byte) : Nat := b.toNat % 32

end Sys2Proof.Machine
end

