-- ==== Sys2Proof/Machine/Flags.lean ====
section
/-! DEFINITION. The flag computations (spec/10_state.md R13, spec/42_alu.md R121). Each is on the operands as they were
before the instruction wrote anything (R120). -/

namespace Sys2Proof.Machine

/-- Carry of 8xy4: the sum exceeded 255 (spec/42_alu.md R128). -/
def carryOut (a b : Byte) : Bool := decide (a.toNat + b.toNat > 255)

/-- No borrow in a - b, for 8xy5 and 8xy7 (spec/42_alu.md R129, R131). -/
def noBorrow (a b : Byte) : Bool := decide (a.toNat ≥ b.toNat)

/-- The bit a right shift moves out, bit 0 (spec/42_alu.md R130). -/
def bitOutRight (a : Byte) : Bool := a.getLsbD 0

/-- The bit a left shift moves out, bit 7 (spec/42_alu.md R132). -/
def bitOutLeft (a : Byte) : Bool := a.getLsbD 7

/-- I + V[x] exceeded 0xFFF, for Fx1E when FX1E_SETS_VF (spec/43_index_memory.md R141). -/
def indexOverflow (i : Word) (b : Byte) : Bool := decide (i.toNat + b.toNat > 0xFFF)

/-- The byte a flag write stores: 0x01 or 0x00 (spec/10_state.md R13). -/
def flagByte (b : Bool) : Byte := if b then 1 else 0

/-- The flag register's index: VF is V[0xF] (spec/10_state.md R13). -/
def vf : RegIdx := 15

end Sys2Proof.Machine
end

