-- ==== Sys2Proof/Machine/Ops.lean ====
section
/-! DEFINITION. The named operations over the state: raising a fault, registers, the program counter, the stack, memory,
the framebuffer and the keypad. Every meaning is written with these. -/

namespace Sys2Proof.Machine

/-! ## Raising a fault (spec/60_exceptions.md R205)

This is the whole of "taking an exception" on this hardware: no handler, no vector, no saved register, no mode; and there is
nothing to return from (R213). -/

/-- End the step with the fault `f` and no successor state (spec/60_exceptions.md R205; assumption log 6). -/
def raise (f : Fault) : Host.Outcome State Fault Refusal := .fault f

/-- Go on with what a checked operation gives, or raise the fault it found (spec/00_scope.md R7, "raise"). -/
def attempt {α : Type} (r : Except Fault α) (go : α → Host.Outcome State Fault Refusal) : Host.Outcome State Fault Refusal :=
  match r with
  | .ok a => go a
  | .error f => raise f

/-! ## General registers (spec/10_state.md R12, R13) -/

/-- V[x] <- b. -/
def State.setV (s : State) (x : RegIdx) (b : Byte) : State := { s with v := s.v.set x.val b }

/-- V[0xF] <- 1 or 0 (spec/10_state.md R13). -/
def State.setFlag (s : State) (b : Bool) : State := s.setV vf (flagByte b)

/-- The result to V[x], then the flag to V[0xF]: with x = 0xF the flag remains (spec/42_alu.md R120, D11; log 7). -/
def State.setResultThenFlag (s : State) (x : RegIdx) (result : Byte) (flag : Bool) : State :=
  (s.setV x result).setFlag flag

/-- Write a list of bytes to V[j], V[j+1], … (spec/43_index_memory.md R145). -/
def State.setRegsFrom (s : State) (j : Nat) : List Byte → State
  | [] => s
  | b :: bs => (s.setV (Fin.ofNat 16 j) b).setRegsFrom (j + 1) bs

/-! ## The other registers (spec/10_state.md R14, R17, R19, R25) -/

/-- PC <- target, stored unchecked (spec/10_state.md R15). -/
def State.setPC (s : State) (target : Word) : State := { s with pc := target }

/-- The fetch's own advance, PC <- PC + 2 (spec/10_state.md R14). -/
def State.advance (s : State) : State := s.setPC (s.pc + 2)

/-- A skip: PC <- PC + 2 once more when the condition holds (spec/41_skip.md R110). -/
def State.skipIf (s : State) (c : Bool) : State := if c then s.advance else s

/-- I <- a. -/
def State.setI (s : State) (a : Word) : State := { s with i := a }

/-- DT <- b. -/
def State.setDT (s : State) (b : Byte) : State := { s with dt := b }

/-- ST <- b. -/
def State.setST (s : State) (b : Byte) : State := { s with st := b }

/-- WAIT <- w. -/
def State.setWait (s : State) (w : Option RegIdx) : State := { s with wait := w }

/-- FB <- fb. -/
def State.setFB (s : State) (fb : Framebuffer) : State := { s with fb := fb }

/-- One random byte has been drawn (spec/42_alu.md R133: exactly one per executed Cxkk). -/
def State.countDraw (s : State) : State := { s with draws := s.draws + 1 }

/-! ## The call stack (spec/10_state.md R18, R21; assumption log 14) -/

/-- STACK[SP] <- a, then SP <- SP + 1; StackOverflow when SP = 16 (spec/40_flow.md R103). -/
def State.push (s : State) (a : Word) : Except Fault State :=
  if h : s.sp.val < 16 then
    .ok { s with stack := s.stack.set s.sp.val a, sp := ⟨s.sp.val + 1, by omega⟩ }
  else .error .stackOverflow

/-- SP <- SP - 1, and the entry that was on top; StackUnderflow when SP = 0 (spec/40_flow.md R101). The popped slot keeps
its value (spec/10_state.md R21). -/
def State.pop (s : State) : Except Fault (Word × State) :=
  if h : 0 < s.sp.val then
    .ok (s.stack[s.sp.val - 1], { s with sp := ⟨s.sp.val - 1, by omega⟩ })
  else .error .stackUnderflow

/-! ## Memory (spec/20_memory.md R40 to R47; assumption logs 1, 12) -/

/-- What an address that memory does not list reads as: the reset contents, FONT in 0x000..0x04F and zero elsewhere
(spec/10_state.md R24, R27; spec/20_memory.md R41). -/
def resetByte (font : Font) (a : Nat) : Byte := font[a]?.getD 0

/-- MEM[a] in a memory. -/
def Memory.get (font : Font) : Memory → Nat → Byte
  | [], a => resetByte font a
  | (k, b) :: rest, a => if a = k then b else Memory.get font rest a

/-- MEM[a] <- b in a memory, in canonical form: a byte equal to the reset contents is not listed. -/
def Memory.set (font : Font) : Memory → Nat → Byte → Memory
  | [], a, b => if b = resetByte font a then [] else [(a, b)]
  | (k, c) :: rest, a, b =>
    if a < k then (if b = resetByte font a then (k, c) :: rest else (a, b) :: (k, c) :: rest)
    else if a = k then (if b = resetByte font a then rest else (a, b) :: rest)
    else (k, c) :: Memory.set font rest a b

/-- Every listed address is at least `low`, the addresses rise strictly, and no listed byte equals the reset contents. -/
def Memory.wfFrom (font : Font) (low : Nat) : Memory → Bool
  | [] => true
  | (k, b) :: rest => decide (low ≤ k) && decide (k < 4096) && decide (b ≠ resetByte font k) && Memory.wfFrom font (k + 1) rest

/-- The canonical form: strictly rising addresses below 4096 (spec/20_memory.md R40), no entry equal to the reset contents. -/
def Memory.wf (font : Font) (m : Memory) : Bool := Memory.wfFrom font 0 m

/-- MEM[a] (spec/20_memory.md R44, without its bound). -/
def State.memGet (s : State) (a : Nat) : Byte := Memory.get s.cfg.font s.mem a

/-- MEM[a] <- b (spec/20_memory.md R45, without its bound). -/
def State.memSet (s : State) (a : Nat) (b : Byte) : State := { s with mem := Memory.set s.cfg.font s.mem a b }

/-- MemRead(a, 1) (spec/20_memory.md R44). -/
def State.memRead (s : State) (a : Nat) : Except Fault Byte :=
  if a > 0xFFF then .error .outOfBounds else .ok (s.memGet a)

/-- MemWrite(a, 1, b) (spec/20_memory.md R45). -/
def State.memWrite (s : State) (a : Nat) (b : Byte) : Except Fault State :=
  if a > 0xFFF then .error .outOfBounds else .ok (s.memSet a b)

/-- Fetch(a), big-endian, from any address that has two bytes in memory (spec/20_memory.md R43, R48, R49). -/
def State.fetch (s : State) (a : Nat) : Except Fault Word :=
  if a > 0xFFE then .error .outOfBounds else .ok (s.memGet a ++ s.memGet (a + 1))

/-- The highest of `len` bytes from `a` lies beyond memory; an empty range never does (spec/20_memory.md R46, R47). -/
def outOfRange (a len : Nat) : Bool := decide (len ≥ 1 ∧ a + len - 1 > 0xFFF)

/-- The `len` bytes from `a`, lowest address first. -/
def State.bytesAt (s : State) (a len : Nat) : List Byte := (List.range len).map fun j => s.memGet (a + j)

/-- Store a list of bytes from `a` upward. -/
def State.storeBytes (s : State) (a : Nat) : List Byte → State
  | [] => s
  | b :: bs => (s.memSet a b).storeBytes (a + 1) bs

/-- Read a range, checked as a whole before any byte moves (spec/20_memory.md R47). -/
def State.readRange (s : State) (a len : Nat) : Except Fault (List Byte) :=
  if outOfRange a len then .error .outOfBounds else .ok (s.bytesAt a len)

/-- Write a range, checked as a whole before any byte moves (spec/20_memory.md R47). -/
def State.writeRange (s : State) (a : Nat) (bs : List Byte) : Except Fault State :=
  if outOfRange a bs.length then .error .outOfBounds else .ok (s.storeBytes a bs)

/-! ## The framebuffer (spec/10_state.md R22, spec/44_display.md R151, R152; assumption log 11) -/

/-- The pixel FB[r * 64 + c] (spec/10_state.md R22). -/
def Framebuffer.pixel (fb : Framebuffer) (c : Column) (r : Row) : Bool := fb[r.val][c.val]

/-- FB[r * 64 + c] <- on. -/
def Framebuffer.setPixel (fb : Framebuffer) (c : Column) (r : Row) (on : Bool) : Framebuffer :=
  fb.set r.val (fb[r.val].set c.val on)

/-- A pixel of the state's FB. -/
def State.pixel (s : State) (c : Column) (r : Row) : Bool := Framebuffer.pixel s.fb c r

/-- The column at a distance from the left edge, wrapped modulo 64 (spec/44_display.md R152). -/
def wrapColumn (c : Nat) : Column := Fin.ofNat 64 c

/-- The row at a distance from the top edge, wrapped modulo 32 (spec/44_display.md R152, D16). -/
def wrapRow (r : Nat) : Row := Fin.ofNat 32 r

/-- A framebuffer being drawn on, and whether a pixel has been turned off so far. -/
structure Canvas where
  fb : Framebuffer
  hit : Bool
  deriving DecidableEq, Repr

/-- Invert one pixel and note a hit when it was on (spec/44_display.md R151, the loop's body). -/
def Canvas.flip (k : Canvas) (c : Column) (r : Row) : Canvas where
  fb := Framebuffer.setPixel k.fb c r (!Framebuffer.pixel k.fb c r)
  hit := k.hit || Framebuffer.pixel k.fb c r

/-- Plot one sprite row at screen row `row`, bit 7 leftmost, a 0 bit leaving its pixel alone (spec/44_display.md R151,
R152; D15). -/
def Canvas.plotRow (k : Canvas) (x0 row : Nat) (b : Byte) : Canvas :=
  (List.range 8).foldl (fun acc c => if b.getLsbD (7 - c) then acc.flip (wrapColumn (x0 + c)) (wrapRow row) else acc) k

/-- Plot sprite rows downward from screen row `row` (spec/44_display.md R151). -/
def Canvas.plotRows (k : Canvas) (x0 row : Nat) : List Byte → Canvas
  | [] => k
  | b :: bs => (k.plotRow x0 row b).plotRows x0 (row + 1) bs

/-! ## The keypad (spec/10_state.md R23, R25, spec/30_encoding.md R67; assumption logs 9, 10) -/

/-- KEY[k] = 1. -/
def State.keyDown (s : State) (k : KeyIdx) : Bool := s.key[k.val]

/-- The least k with KEY[k] = 1, if any key is down (spec/30_encoding.md R67, D19). -/
def State.lowestKey (s : State) : Option KeyIdx := (List.finRange 16).find? fun k => s.keyDown k

/-- The key poll of a step that finds WAIT = some(r) (spec/30_encoding.md R67). -/
def State.pollKeys (s : State) (r : RegIdx) : State :=
  match s.lowestKey with
  | some k => (s.setV r (BitVec.ofNat 8 k.val)).setWait none
  | none => s

end Sys2Proof.Machine
end

