-- ==== Sys2Proof/Machine/Alu.lean ====
section
/-! DEFINITION. Register load, arithmetic, logic, shifts and random: 6xkk, 7xkk, 8xy0 to 8xy7, 8xyE, Cxkk (spec/42_alu.md).
Sources are read from the state before any write (R120); a byte sum or difference wraps modulo 256 (R121). -/

namespace Sys2Proof.Machine

/-- 6xkk LD: V[x] <- kk (spec/42_alu.md R122). -/
def execLdKk (x : RegIdx) (kk : Byte) (s : State) : Host.Outcome State Fault Refusal := .next (s.setV x kk)

/-- 7xkk ADD: V[x] <- (V[x] + kk) mod 256, no flag (spec/42_alu.md R123). -/
def execAddKk (x : RegIdx) (kk : Byte) (s : State) : Host.Outcome State Fault Refusal :=
  .next (s.setV x (s.getV x + kk))

/-- 8xy0 LD: V[x] <- V[y] (spec/42_alu.md R124). -/
def execLdV (x y : RegIdx) (s : State) : Host.Outcome State Fault Refusal := .next (s.setV x (s.getV y))

/-- 8xy1 OR (spec/42_alu.md R125; VF is left alone, D10, assumption log 13). -/
def execOrV (x y : RegIdx) (s : State) : Host.Outcome State Fault Refusal := .next (s.setV x (s.getV x ||| s.getV y))

/-- 8xy2 AND (spec/42_alu.md R126). -/
def execAndV (x y : RegIdx) (s : State) : Host.Outcome State Fault Refusal := .next (s.setV x (s.getV x &&& s.getV y))

/-- 8xy3 XOR (spec/42_alu.md R127). -/
def execXorV (x y : RegIdx) (s : State) : Host.Outcome State Fault Refusal := .next (s.setV x (s.getV x ^^^ s.getV y))

/-- 8xy4 ADD: the sum, then VF <- carry (spec/42_alu.md R128). -/
def execAddV (x y : RegIdx) (s : State) : Host.Outcome State Fault Refusal :=
  .next (s.setResultThenFlag x (s.getV x + s.getV y) (carryOut (s.getV x) (s.getV y)))

/-- 8xy5 SUB: V[x] - V[y], then VF <- no borrow (spec/42_alu.md R129). -/
def execSubV (x y : RegIdx) (s : State) : Host.Outcome State Fault Refusal :=
  .next (s.setResultThenFlag x (s.getV x - s.getV y) (noBorrow (s.getV x) (s.getV y)))

/-- 8xy6 SHR: V[x] shifted right by one, then VF <- the bit out; `_y` is not used (spec/42_alu.md R130). -/
def execShr (x _y : RegIdx) (s : State) : Host.Outcome State Fault Refusal :=
  .next (s.setResultThenFlag x (s.getV x >>> 1) (bitOutRight (s.getV x)))

/-- 8xy7 SUBN: V[y] - V[x], then VF <- no borrow (spec/42_alu.md R131). -/
def execSubnV (x y : RegIdx) (s : State) : Host.Outcome State Fault Refusal :=
  .next (s.setResultThenFlag x (s.getV y - s.getV x) (noBorrow (s.getV y) (s.getV x)))

/-- 8xyE SHL: V[x] shifted left by one, then VF <- the bit out; `_y` is not used (spec/42_alu.md R132). -/
def execShl (x _y : RegIdx) (s : State) : Host.Outcome State Fault Refusal :=
  .next (s.setResultThenFlag x (s.getV x <<< 1) (bitOutLeft (s.getV x)))

/-- Cxkk with the drawn byte `r`: V[x] <- r AND kk, one draw consumed (spec/42_alu.md R133). -/
def rndWith (r : Byte) (x : RegIdx) (kk : Byte) (s : State) : State := (s.setV x (r &&& kk)).countDraw

/-- Cxkk RND: with the next byte of the random source, a free value (spec/42_alu.md R133, D13; assumption log 4). -/
def execRnd (x : RegIdx) (kk : Byte) (s : State) : Host.Outcome State Fault Refusal :=
  .next (rndWith (Config.randByte s.draws) x kk s)

end Sys2Proof.Machine
end

