-- ==== Sys2Proof/Machine/Display.lean ====
section
/-! DEFINITION. The framebuffer instructions: 00E0, Dxyn (spec/44_display.md). -/

namespace Sys2Proof.Machine

/-- 00E0 CLS: every pixel off, VF not written (spec/44_display.md R150). -/
def execCls (s : State) : Host.Outcome State Fault Refusal := .next (s.setFB blankScreen)

/-- Dxyn DRW: XOR-plot n sprite rows from MEM[I..] at (V[x] mod 64, V[y] mod 32), then VF <- collision; OutOfBounds when
the last byte lies beyond 0xFFF (spec/44_display.md R151). -/
def execDrw (x y : RegIdx) (n : Nat) (s : State) : Host.Outcome State Fault Refusal :=
  attempt (s.readRange s.i.toNat n) fun rows =>
    let k := Canvas.plotRows ⟨s.fb, false⟩ (startColumn (s.getV x)) (startRow (s.getV y)) rows
    .next ((s.setFB k.fb).setFlag k.hit)

end Sys2Proof.Machine
end

