-- ==== Sys2Proof/Machine/Flow.lean ====
section
/-! DEFINITION. Control transfer and the no-operation: 0000, 00EE, 1nnn, 2nnn, Bnnn (spec/40_flow.md). PC is the address of
the instruction plus 2 when a meaning runs (spec/30_encoding.md R66). -/

namespace Sys2Proof.Machine

/-- 0000 NOP: nothing beyond the fetch's advance (spec/40_flow.md R100, D9; assumption log 8). -/
def execNop (s : State) : Host.Outcome State Fault Refusal := .next s

/-- 00EE RET: PC <- the entry on top of the stack, popped; StackUnderflow when empty (spec/40_flow.md R101). -/
def execRet (s : State) : Host.Outcome State Fault Refusal :=
  attempt s.pop fun r => .next (r.2.setPC r.1)

/-- 1nnn JP: PC <- nnn (spec/40_flow.md R102). -/
def execJp (nnn : Addr12) (s : State) : Host.Outcome State Fault Refusal := .next (s.setPC (extendAddr nnn))

/-- 2nnn CALL: push PC, PC <- nnn; StackOverflow when full (spec/40_flow.md R103). -/
def execCall (nnn : Addr12) (s : State) : Host.Outcome State Fault Refusal :=
  attempt (s.push s.pc) fun t => .next (t.setPC (extendAddr nnn))

/-- Bnnn JP V0: PC <- nnn + V[0], not reduced (spec/40_flow.md R104). -/
def execJpV0 (nnn : Addr12) (s : State) : Host.Outcome State Fault Refusal :=
  .next (s.setPC (offsetTarget nnn (s.getV 0)))

end Sys2Proof.Machine
end

