-- ==== Sys2Proof/Machine/IndexMemory.lean ====
section
/-! DEFINITION. The index register and memory transfers: Annn, Fx1E, Fx29, Fx33, Fx55, Fx65 (spec/43_index_memory.md). None
of the transfers moves I (D10, assumption log 13). -/

namespace Sys2Proof.Machine

/-- Annn LD I: I <- nnn (spec/43_index_memory.md R140). -/
def execLdI (nnn : Addr12) (s : State) : Host.Outcome State Fault Refusal := .next (s.setI (extendAddr nnn))

/-- Fx1E ADD I: I <- (I + V[x]) mod 4096; V[0xF] <- overflow only when FX1E_SETS_VF (spec/43_index_memory.md R141, D12;
assumption log 3). -/
def execAddI (x : RegIdx) (s : State) : Host.Outcome State Fault Refusal :=
  let t := s.setI (indexSum s.i (s.getV x))
  .next (if s.cfg.fx1eSetsVF then t.setFlag (indexOverflow s.i (s.getV x)) else t)

/-- Fx29 LD F: I <- V[x] * 5 (spec/43_index_memory.md R142). -/
def execLdF (x : RegIdx) (s : State) : Host.Outcome State Fault Refusal := .next (s.setI (glyphAddr (s.getV x)))

/-- Fx33 LD B: the three decimal digits of V[x] to MEM[I..I+2]; OutOfBounds when I + 2 > 0xFFF
(spec/43_index_memory.md R143). -/
def execLdB (x : RegIdx) (s : State) : Host.Outcome State Fault Refusal :=
  attempt (s.writeRange s.i.toNat (decimalDigits (s.getV x))) fun t => .next t

/-- Fx55 LD [I], Vx: V[0]..V[x] to MEM[I..I+x]; OutOfBounds when I + x > 0xFFF (spec/43_index_memory.md R144). -/
def execStRegs (x : RegIdx) (s : State) : Host.Outcome State Fault Refusal :=
  attempt (s.writeRange s.i.toNat (s.regsThrough x)) fun t => .next t

/-- Fx65 LD Vx, [I]: MEM[I..I+x] to V[0]..V[x]; OutOfBounds when I + x > 0xFFF (spec/43_index_memory.md R145). -/
def execLdRegs (x : RegIdx) (s : State) : Host.Outcome State Fault Refusal :=
  attempt (s.readRange s.i.toNat (x.val + 1)) fun bs => .next (s.setRegsFrom 0 bs)

end Sys2Proof.Machine
end

