-- ==== Sys2Proof/Machine/KeypadTimers.lean ====
section
/-! DEFINITION. The keypad and timer instructions: Ex9E, ExA1, Fx0A, Fx07, Fx15, Fx18 (spec/45_keypad_timers.md). -/

namespace Sys2Proof.Machine

/-- Ex9E SKP: skip if the selected key is down (spec/45_keypad_timers.md R160, R166). -/
def execSkp (x : RegIdx) (s : State) : Host.Outcome State Fault Refusal :=
  .next (s.skipIf (s.keyDown (selectedKey (s.getV x))))

/-- ExA1 SKNP: skip if the selected key is up (spec/45_keypad_timers.md R161, R166). -/
def execSknp (x : RegIdx) (s : State) : Host.Outcome State Fault Refusal :=
  .next (s.skipIf (!s.keyDown (selectedKey (s.getV x))))

/-- Fx07 LD Vx, DT (spec/45_keypad_timers.md R163). -/
def execLdVxDT (x : RegIdx) (s : State) : Host.Outcome State Fault Refusal := .next (s.setV x s.dt)

/-- Fx0A LD Vx, K: WAIT <- some(x) and nothing else; later steps poll (spec/45_keypad_timers.md R162, D17;
assumption log 9). -/
def execLdVxK (x : RegIdx) (s : State) : Host.Outcome State Fault Refusal := .next (s.setWait (some x))

/-- Fx15 LD DT, Vx (spec/45_keypad_timers.md R164). -/
def execLdDTVx (x : RegIdx) (s : State) : Host.Outcome State Fault Refusal := .next (s.setDT (s.getV x))

/-- Fx18 LD ST, Vx (spec/45_keypad_timers.md R165). -/
def execLdSTVx (x : RegIdx) (s : State) : Host.Outcome State Fault Refusal := .next (s.setST (s.getV x))

end Sys2Proof.Machine
end

