-- ==== Sys2Proof/Machine/Skip.lean ====
section
/-! DEFINITION. The conditional skips on registers: 3xkk, 4xkk, 5xy0, 9xy0 (spec/41_skip.md). -/

namespace Sys2Proof.Machine

/-- 3xkk SE: skip if V[x] = kk (spec/41_skip.md R110). -/
def execSeKk (x : RegIdx) (kk : Byte) (s : State) : Host.Outcome State Fault Refusal :=
  .next (s.skipIf (s.getV x == kk))

/-- 4xkk SNE: skip if V[x] != kk (spec/41_skip.md R111). -/
def execSneKk (x : RegIdx) (kk : Byte) (s : State) : Host.Outcome State Fault Refusal :=
  .next (s.skipIf (s.getV x != kk))

/-- 5xy0 SE: skip if V[x] = V[y] (spec/41_skip.md R112). -/
def execSeV (x y : RegIdx) (s : State) : Host.Outcome State Fault Refusal :=
  .next (s.skipIf (s.getV x == s.getV y))

/-- 9xy0 SNE: skip if V[x] != V[y] (spec/41_skip.md R113). -/
def execSneV (x y : RegIdx) (s : State) : Host.Outcome State Fault Refusal :=
  .next (s.skipIf (s.getV x != s.getV y))

end Sys2Proof.Machine
end

