-- ==== Sys2Proof/Machine/Execute.lean ====
section
/-! DEFINITION. Running a fetched word, the two cases of a step, and placing a word where the next step fetches
(spec/30_encoding.md R66 to R69). -/

namespace Sys2Proof.Machine

/-- execute(op): the meaning of the word, or UnknownOpcode with the word (spec/30_encoding.md R69, R71). -/
def execute (op : Word) (s : State) : Host.Outcome State Fault Refusal :=
  match decodeWord op with
  | some i => exec i s
  | none => raise (.unknownOpcode op)

/-- The step of a core that is not waiting: fetch at PC, advance PC by 2, execute (spec/30_encoding.md R66). -/
def fetchAndRun (s : State) : Host.Outcome State Fault Refusal :=
  attempt (s.fetch s.pc.toNat) fun op => execute op s.advance

/-- The step of a core that waits for a key: no fetch, PC untouched, no fault (spec/30_encoding.md R66, R67). -/
def pollStep (r : RegIdx) (s : State) : Host.Outcome State Fault Refusal := .next (s.pollKeys r)

/-- Where the next step fetches: PC, or 0x200 when no word can be fetched at PC (assumption log 17). -/
def State.fetchPoint (s : State) : Word := if s.pc.toNat > 0xFFE then 0x200 else s.pc

/-- The state with a word stored where the next step fetches it, high byte first, and that step made to fetch
(assumption log 17). -/
def State.placeWord (s : State) (op : Word) : State :=
  ((s.setPC s.fetchPoint).setWait none).storeBytes s.fetchPoint.toNat [highByte op, lowByte op]

end Sys2Proof.Machine
end

