-- ==== Sys2Proof/Machine/Step.lean ====
section
/-! DEFINITION. One call of fetch_and_execute (spec/30_encoding.md R65, R66). -/

namespace Sys2Proof.Machine

/-- The step, in full (spec/30_encoding.md R66). -/
def step (s : State) : Host.Outcome State Fault Refusal :=
  match s.wait with
  | some r => pollStep r s
  | none => fetchAndRun s

/-- `s` with the instruction of the word `w` (numbered as spec/opcode_table.json numbers it, bits at and above `nbits`
zero) stored where the next step fetches, so that the very next step runs it (assumption log 17). -/
def State.withFetchWord (s : State) (nbits w : Nat) : State := s.placeWord (BitVec.ofNat 16 (w % 2 ^ nbits))

end Sys2Proof.Machine
end

