-- ==== Sys2Proof/Machine/HostOps.lean ====
section
/-! DEFINITION. The host's seven operations (spec/60_exceptions.md R226) and the sessions they make: any list of operations,
in any order (R224, R225; assumption log 16). -/

namespace Sys2Proof.Machine

/-- reset(): every item of state to its reset value (spec/70_reset_and_hazards.md R240). The configuration stands, and the
random source, which is outside the core, goes on where it was (assumption log 4). -/
def State.hostReset (s : State) : State := State.powerOn s.cfg s.draws

/-- load(rom): the image to MEM[0x200..] and nothing else, or LoadError when it is longer than 3584 bytes
(spec/70_reset_and_hazards.md R243, R244). -/
def State.hostLoad (s : State) (rom : List Byte) : Except Fault State :=
  if rom.length > 3584 then .error .loadError else .ok (s.storeBytes 0x200 rom)

/-- A timer one tick later: down by one, never below zero (spec/60_exceptions.md R215). -/
def tickDown (b : Byte) : Byte := if b.toNat > 0 then b - 1 else b

/-- tick_timers() (spec/60_exceptions.md R215). -/
def State.tickTimers (s : State) : State := (s.setDT (tickDown s.dt)).setST (tickDown s.st)

/-- set_key(index, pressed) (spec/60_exceptions.md R218). -/
def State.setKey (s : State) (k : KeyIdx) (pressed : Bool) : State := { s with key := s.key.set k.val pressed }

/-- framebuffer(): a view of the 2048 pixels in row-major order (spec/60_exceptions.md R219, spec/10_state.md R22). -/
def State.framebuffer (s : State) : List Bool := s.fb.toList.flatMap fun row => row.toList

/-- is_sounding(): ST > 0 (spec/60_exceptions.md R217). -/
def State.isSounding (s : State) : Bool := decide (s.st.toNat > 0)

/-- The operations of the host table (spec/60_exceptions.md R226). -/
inductive HostOp where
  | reset
  | load (rom : List Byte)
  | fetchAndExecute
  | tickTimers
  | setKey (k : KeyIdx) (pressed : Bool)
  | framebuffer
  | isSounding
  deriving DecidableEq, Repr

/-- What the host gets back from an operation (spec/60_exceptions.md R226). -/
inductive Reply where
  | ok
  | error (f : Fault)
  | pixels (view : List Bool)
  | sounding (b : Bool)
  deriving DecidableEq, Repr

/-- A machine in its host's hands. After a faulting step there is no state until reset (spec/60_exceptions.md R205, R213):
only the configuration and the position in the random source, both outside the core, are left (assumption log 6). -/
inductive Session where
  | live (s : State)
  | faulted (cfg : Config) (draws : Nat)
  deriving DecidableEq, Repr

/-- What an operation that raised nothing leaves and answers. -/
def answered (s : State) (r : Reply) : Host.Outcome (Session × Reply) Fault Refusal := .next (.live s, r)

/-- One operation on a live machine (spec/60_exceptions.md R226). A step that faults leaves no state; a refused load leaves
the prior state (R207). -/
def HostOp.applyLive (op : HostOp) (s : State) : Host.Outcome (Session × Reply) Fault Refusal :=
  match op with
  | .reset => answered s.hostReset .ok
  | .load rom =>
    match s.hostLoad rom with
    | .ok t => answered t .ok
    | .error f => answered s (.error f)
  | .fetchAndExecute =>
    match step s with
    | .next t => answered t .ok
    | .fault f => .next (.faulted s.cfg s.draws, .error f)
    | .refused r => .refused r
  | .tickTimers => answered s.tickTimers .ok
  | .setKey k pressed => answered (s.setKey k pressed) .ok
  | .framebuffer => answered s (.pixels s.framebuffer)
  | .isSounding => answered s (.sounding s.isSounding)

/-- One operation on a session: after a fault only reset is defined (spec/60_exceptions.md R205, R213,
spec/70_reset_and_hazards.md R242, R247). -/
def Session.apply (op : HostOp) (x : Session) : Host.Outcome (Session × Reply) Fault Refusal :=
  match x with
  | .live s => op.applyLive s
  | .faulted cfg draws =>
    match op with
    | .reset => answered (State.powerOn cfg draws) .ok
    | _ => .refused .undefinedAfterFault

/-- A run: any list of operations, each applied to what the one before left (spec/60_exceptions.md R224, R225), with the
replies in order. -/
def Session.run : List HostOp → Session → Host.Outcome (Session × List Reply) Fault Refusal
  | [], x => .next (x, [])
  | op :: ops, x =>
    match x.apply op with
    | .next (y, r) =>
      match Session.run ops y with
      | .next (z, rs) => .next (z, r :: rs)
      | .fault f => .fault f
      | .refused q => .refused q
    | .fault f => .fault f
    | .refused q => .refused q

end Sys2Proof.Machine
end

