-- ==== Sys2Proof/Safety.lean ====
section
/-! DEFINITION. The terms claims use: what holds in every reachable state (spec/10_state.md R28), when a run has ended
(spec/70_reset_and_hazards.md R256), which part of the state a change leaves alone, and what each instruction may write. -/

namespace Sys2Proof.Machine

/-- The state's memory has the canonical form. -/
def State.MemWf (s : State) : Prop := Memory.wf s.cfg.font s.mem = true

/-- The invariant of spec/10_state.md R28 and the canonical form of memory. V, DT, ST, SP and WAIT are in their ranges by
their types. -/
structure State.Inv (s : State) : Prop where
  mem_wf : s.MemWf
  /-- I <= 0x0FFF (R17) -/
  i_le : s.i.toNat ≤ 0xFFF
  /-- PC <= 0x10FE (R16) -/
  pc_le : s.pc.toNat ≤ 0x10FE
  /-- every live STACK entry is <= 0x1000 (R28) -/
  live_le : ∀ j : Fin 16, j.val < s.sp.val → s.stack[j.val].toNat ≤ 0x1000

/-- The run has ended: PC addresses a self-jump and no key is awaited (spec/70_reset_and_hazards.md R256, D28). A
convention for stating end states, not an event of the hardware. -/
def State.EndOfRun (s : State) : Prop :=
  s.wait = none ∧ ∃ nnn, s.pc = extendAddr nnn ∧ s.fetch s.pc.toNat = .ok (encode (.jp nnn))

/-! ## Frames -/

/-- The items of state a claim speaks of (spec/10_state.md R10), and the model's count of random draws. -/
inductive Part where
  | regs | index | pc | stack | memory | screen | keys | delayTimer | soundTimer | wait | draws
  deriving DecidableEq, Repr

/-- The item reads the same in both states. -/
def Part.Same (s t : State) : Part → Prop
  | .regs => ∀ k, t.getV k = s.getV k
  | .index => t.i = s.i
  | .pc => t.pc = s.pc
  | .stack => t.sp = s.sp ∧ ∀ j : Fin 16, t.stack[j.val] = s.stack[j.val]
  | .memory => ∀ a, t.memGet a = s.memGet a
  | .screen => ∀ c r, t.pixel c r = s.pixel c r
  | .keys => ∀ k, t.keyDown k = s.keyDown k
  | .delayTimer => t.dt = s.dt
  | .soundTimer => t.st = s.st
  | .wait => t.wait = s.wait
  | .draws => t.draws = s.draws

/-- Every item but those listed reads the same in both states, and so does the configuration. -/
def OnlyChanges (s t : State) (parts : List Part) : Prop := t.cfg = s.cfg ∧ ∀ p, p ∉ parts → p.Same s t

/-- Every register but `x` reads the same in both states. -/
def SameRegsBut (x : RegIdx) (s t : State) : Prop := ∀ k, k ≠ x → t.getV k = s.getV k

/-! ## Transfers byte by byte (spec/20_memory.md R47) -/

/-- MemRead of each address of a range in turn. -/
def State.readEach (s : State) (a : Nat) : Nat → Except Fault (List Byte)
  | 0 => .ok []
  | n + 1 =>
    match s.memRead a with
    | .ok b =>
      match s.readEach (a + 1) n with
      | .ok bs => .ok (b :: bs)
      | .error f => .error f
    | .error f => .error f

/-- MemWrite of each byte of a list in turn; a fault on the way leaves no state (spec/60_exceptions.md R205). -/
def State.writeEach (s : State) (a : Nat) : List Byte → Except Fault State
  | [] => .ok s
  | b :: bs =>
    match s.memWrite a b with
    | .ok t => t.writeEach (a + 1) bs
    | .error f => .error f

/-! ## Sprites (spec/44_display.md R151, R152) -/

/-- Bit 7 - k of sprite row j, the pixel k columns right and j rows down from the sprite's corner. -/
def State.spriteBit (s : State) (j k : Nat) : Bool := (s.memGet (s.i.toNat + j)).getLsbD (7 - k)

/-- A 1 bit of the n-row sprite at (V[x] mod 64, V[y] mod 32) lies on the pixel (c, r), each axis wrapped. -/
def State.spriteCovers (s : State) (x y : RegIdx) (n : Nat) (c : Column) (r : Row) : Prop :=
  ∃ j k, j < n ∧ k < 8 ∧ s.spriteBit j k = true ∧
    ((s.getV x).toNat % 64 + k) % 64 = c.val ∧ ((s.getV y).toNat % 32 + j) % 32 = r.val

/-! ## What a part of the state cannot influence -/

/-- The same state but for stack entries at or above SP, which are dead (spec/10_state.md R21). -/
def SameButDeadStack (s t : State) : Prop :=
  t = { s with stack := t.stack } ∧ ∀ j : Fin 16, j.val < s.sp.val → t.stack[j.val] = s.stack[j.val]

/-- The same state but for ST (spec/10_state.md R19). -/
def SameButSound (s t : State) : Prop := t = { s with st := t.st }

/-- Two outcomes of the same kind: next states related by `R`, or the same fault, or the same refusal. -/
def OutcomesAgree (R : State → State → Prop) : Host.Outcome State Fault Refusal → Host.Outcome State Fault Refusal → Prop
  | .next s, .next t => R s t
  | .fault f, .fault g => f = g
  | .refused q, .refused r => q = r
  | _, _ => False

end Sys2Proof.Machine

namespace Sys2Proof

open Machine

/-! ## What an instruction may write -/

/-- The items each instruction's row names (spec/30_encoding.md R70, D10; spec/10_state.md R12 to R25 say the same from the
side of the items). -/
def Instr.mayChange : Instr → List Part
  | .nop => []
  | .cls => [.screen]
  | .ret | .call _ => [.stack, .pc]
  | .jp _ | .jpV0 _ => [.pc]
  | .seKk _ _ | .sneKk _ _ | .seV _ _ | .sneV _ _ | .skp _ | .sknp _ => [.pc]
  | .ldKk _ _ | .addKk _ _ | .ldV _ _ | .orV _ _ | .andV _ _ | .xorV _ _ => [.regs]
  | .addV _ _ | .subV _ _ | .shr _ _ | .subnV _ _ | .shl _ _ | .ldVxDT _ | .ldRegs _ => [.regs]
  | .rnd _ _ => [.regs, .draws]
  | .drw _ _ _ => [.screen, .regs]
  | .ldI _ | .ldF _ => [.index]
  | .addI _ => [.index, .regs]
  | .ldB _ | .stRegs _ => [.memory]
  | .ldVxK _ => [.wait]
  | .ldDTVx _ => [.delayTimer]
  | .ldSTVx _ => [.soundTimer]

/-- The general registers each instruction may write (spec/10_state.md R12, R13), given FX1E_SETS_VF. -/
def Instr.mayWrite (setsVF : Bool) : Instr → RegIdx → Bool
  | .ldKk x _, k | .addKk x _, k | .rnd x _, k => k == x
  | .ldV x _, k | .orV x _, k | .andV x _, k | .xorV x _, k | .ldVxDT x, k => k == x
  | .addV x _, k | .subV x _, k | .shr x _, k | .subnV x _, k | .shl x _, k => k == x || k == vf
  | .drw _ _ _, k => k == vf
  | .addI _, k => setsVF && k == vf
  | .ldRegs x, k => decide (k ≤ x)
  | .nop, _ | .cls, _ | .ret, _ | .call _, _ | .jp _, _ | .jpV0 _, _ => false
  | .seKk _ _, _ | .sneKk _ _, _ | .seV _ _, _ | .sneV _ _, _ | .skp _, _ | .sknp _, _ => false
  | .ldI _, _ | .ldF _, _ | .ldB _, _ | .stRegs _, _ => false
  | .ldVxK _, _ | .ldDTVx _, _ | .ldSTVx _, _ => false

/-! ## Faults of an instruction -/

/-- The memory range the instruction would touch reaches beyond 0xFFF (spec/60_exceptions.md R201 (b) to (d)). -/
def Instr.reachesBeyond (s : State) : Instr → Prop
  | .drw _ _ n => n ≥ 1 ∧ s.i.toNat + n - 1 > 0xFFF
  | .ldB _ => s.i.toNat + 2 > 0xFFF
  | .stRegs x | .ldRegs x => s.i.toNat + x.val > 0xFFF
  | _ => False

/-- One of the six instructions that can fault once decoded (spec/60_exceptions.md R200). -/
def Instr.canFault : Instr → Bool
  | .ret | .call _ | .drw _ _ _ | .ldB _ | .stRegs _ | .ldRegs _ => true
  | _ => false

end Sys2Proof
end

