-- ==== Sys2Proof/Certificates/Slice0/Obligations.lean ====
section
/-! DEFINITION. The statements for the provers, from the numbered rules of spec/. `exec` runs on a state whose PC the fetch
has advanced (spec/30_encoding.md R66). A statement about all states holds for every configuration (FONT, FX1E_SETS_VF) and
every value of the random source. -/

open Sys2Proof Sys2Proof.Machine

/-! ## Encoding -/

/-- Decoding the encoding of a well-formed instruction gives it back, every operand at every value (30_encoding.md R62, R63,
R69, R70). -/
def Obligations.DecodeOfEncodeIsTheInstruction : Prop :=
  ∀ i : Instr, i.wellFormed = true → decodeWord (encode i) = some i

/-- A word that decodes is the encoding of what it decodes to, and that is well formed: no bit of a word is dropped, the
unused y of 8xy6 and 8xyE among them (30_encoding.md R62, R63, R73). -/
def Obligations.EncodeOfDecodeIsTheWord : Prop :=
  ∀ (op : Word) (i : Instr), decodeWord op = some i → encode i = op ∧ i.wellFormed = true

/-- A word decodes to an instruction of exactly the one row of the opcode table whose mask and match cover it, and to none
exactly when no row covers it (30_encoding.md R69, R70, R71). -/
def Obligations.DecoderFollowsTheOpcodeTable : Prop :=
  ∀ op : Word,
    (∀ i, decodeWord op = some i →
      i.row ∈ opcodeTable ∧ i.row.covers op = true ∧ ∀ r ∈ opcodeTable, r.covers op = true → r = i.row) ∧
    (decodeWord op = none ↔ ∀ r ∈ opcodeTable, r.covers op = false)

/-- The illegal words are exactly those of the class table of 30_encoding.md R71 (its counts are not stated here). -/
def Obligations.IllegalWordsAreThoseOfTheClassTable : Prop :=
  ∀ op : Word,
    decodeWord op = none ↔
      (op.toNat / 4096 = 0 ∧ op.toNat ≠ 0 ∧ op.toNat ≠ 0x00E0 ∧ op.toNat ≠ 0x00EE) ∨
      (op.toNat / 4096 = 5 ∧ op.toNat % 16 ≠ 0) ∨
      (op.toNat / 4096 = 8 ∧ op.toNat % 16 ∈ [0x8, 0x9, 0xA, 0xB, 0xC, 0xD, 0xF]) ∨
      (op.toNat / 4096 = 9 ∧ op.toNat % 16 ≠ 0) ∨
      (op.toNat / 4096 = 0xE ∧ op.toNat % 256 ∉ [0x9E, 0xA1]) ∨
      (op.toNat / 4096 = 0xF ∧ op.toNat % 256 ∉ [0x07, 0x0A, 0x15, 0x18, 0x1E, 0x29, 0x33, 0x55, 0x65])

/-- The worked decodings of 30_encoding.md section 7, the words written out there. -/
def Obligations.WorkedDecodingsOfTheSpec : Prop :=
  decodeWord 0x6A3C = some (.ldKk 0xA 0x3C) ∧ decodeWord 0xD005 = some (.drw 0 0 5) ∧
  decodeWord 0x8AB6 = some (.shr 0xA 0xB) ∧ decodeWord 0x5AB1 = none ∧ decodeWord 0x0123 = none ∧
  decodeWord 0xF155 = some (.stRegs 1) ∧ decodeWord 0xE19F = none

/-! ## The step -/

/-- The step in full: a waiting core polls and does not fetch; otherwise a PC above 0xFFE faults, and any other PC has its
big-endian word executed with PC advanced by 2 (30_encoding.md R66). -/
def Obligations.StepPollsOrFetchesAdvancesAndExecutes : Prop :=
  ∀ s : State,
    (∀ r, s.wait = some r → step s = .next (s.pollKeys r)) ∧
    (s.wait = none → s.pc.toNat > 0xFFE → step s = .fault .outOfBounds) ∧
    (s.wait = none → s.pc.toNat ≤ 0xFFE →
      ∀ op : Word, op.toNat = (s.memGet s.pc.toNat).toNat * 256 + (s.memGet (s.pc.toNat + 1)).toNat →
        step s = execute op (s.setPC (s.pc + 2)))

/-- When the two bytes at PC decode to an instruction, the step is exec of it with PC advanced past them (30_encoding.md R66,
R69). -/
def Obligations.StepRunsTheDecodedInstruction : Prop :=
  ∀ (s : State) (i : Instr), s.wait = none → s.pc.toNat ≤ 0xFFE →
    decode [s.memGet s.pc.toNat, s.memGet (s.pc.toNat + 1)] = .ok (i, []) →
    step s = exec i (s.setPC (s.pc + 2))

/-- Placing a table word that decodes makes the very next step run its instruction, from any state whose memory is canonical
(the model's own way of placing a word, assumption log 17; 30_encoding.md R66). -/
def Obligations.PlacedWordRunsNext : Prop :=
  ∀ (s : State) (w : Nat) (i : Instr), s.MemWf → decodeTableWord 16 w = some i →
    step (s.withFetchWord 16 w) = exec i (s.withFetchWord 16 w).advance

/-- The key poll: the least key down goes to the awaited register and ends the wait, with nothing fetched; with no key down
nothing changes (30_encoding.md R67, on the spec's decisions D18, D19, D20; assumption log 9). -/
def Obligations.KeyPollTakesTheLeastKeyDown : Prop :=
  ∀ (s : State) (r : RegIdx), s.wait = some r →
    (∀ k : KeyIdx, s.keyDown k = true → (∀ q, q < k → s.keyDown q = false) →
      ∃ t, step s = .next t ∧ (t.getV r).toNat = k.val ∧ t.wait = none ∧ SameRegsBut r s t ∧
        OnlyChanges s t [.regs, .wait]) ∧
    ((∀ k : KeyIdx, s.keyDown k = false) → step s = .next s)

/-- A step faults exactly where the spec says: OutOfBounds, UnknownOpcode with the fetched word, StackOverflow,
StackUnderflow; never LoadError, never a refusal, and never while it waits (60_exceptions.md R200 to R204, R210). -/
def Obligations.StepFaultsExactlyWhereTheSpecSays : Prop :=
  ∀ s : State,
    (step s = .fault .outOfBounds ↔ s.wait = none ∧ (s.pc.toNat > 0xFFE ∨
      ∃ op i, s.fetch s.pc.toNat = .ok op ∧ decodeWord op = some i ∧ i.reachesBeyond s)) ∧
    (∀ op, step s = .fault (.unknownOpcode op) ↔
      s.wait = none ∧ s.fetch s.pc.toNat = .ok op ∧ decodeWord op = none) ∧
    (step s = .fault .stackOverflow ↔
      s.wait = none ∧ s.sp.val = 16 ∧ ∃ op nnn, s.fetch s.pc.toNat = .ok op ∧ decodeWord op = some (.call nnn)) ∧
    (step s = .fault .stackUnderflow ↔
      s.wait = none ∧ s.sp.val = 0 ∧ ∃ op, s.fetch s.pc.toNat = .ok op ∧ decodeWord op = some .ret) ∧
    step s ≠ .fault .loadError ∧ ∀ q, step s ≠ .refused q

/-- The 29 instructions that 60_exceptions.md R200 does not name complete in every state. -/
def Obligations.TwentyNineInstructionsAlwaysComplete : Prop :=
  ∀ (i : Instr) (s : State), i.canFault = false → ∃ t, exec i s = .next t

/-! ## Invariants -/

/-- Reset meets the invariant, in every configuration (10_state.md R27, R28). -/
def Obligations.ResetStateMeetsTheInvariant : Prop :=
  State.reset.Inv ∧ ∀ cfg draws, (State.powerOn cfg draws).Inv

/-- Every step keeps: canonical memory, I <= 0x0FFF, PC <= 0x10FE, live stack entries <= 0x1000 (10_state.md R16, R17, R28). -/
def Obligations.EveryStepKeepsTheInvariant : Prop :=
  ∀ s t : State, s.Inv → step s = .next t → t.Inv

/-- Every host operation keeps the invariant of a live machine (10_state.md R28, 60_exceptions.md R226). -/
def Obligations.EveryHostOperationKeepsTheInvariant : Prop :=
  ∀ (op : HostOp) (s t : State) (r : Reply), s.Inv → op.applyLive s = .next (.live t, r) → t.Inv

/-- Whatever the host does from power-on, in any order and with resets after faults, a live machine meets the invariant
(10_state.md R28, 60_exceptions.md R224, R225). -/
def Obligations.EverySessionMeetsTheInvariant : Prop :=
  ∀ (cfg : Config) (draws : Nat) (ops : List HostOp) (t : State) (rs : List Reply),
    Session.run ops (.live (State.powerOn cfg draws)) = .next (.live t, rs) → t.Inv

/-- reset() sets every item of state to its reset value, whatever the state was, also after a fault (70_reset_and_hazards.md
R240). The bytes of FONT are the configuration's. -/
def Obligations.ResetSetsEveryItem : Prop :=
  ∀ s : State, ∃ t, HostOp.reset.applyLive s = .next (.live t, .ok) ∧
    (Session.faulted s.cfg s.draws).apply .reset = .next (.live t, .ok) ∧
    (∀ k, t.getV k = 0) ∧ t.i = 0 ∧ t.pc.toNat = 0x200 ∧ t.sp.val = 0 ∧ (∀ j : Fin 16, t.stack[j.val] = 0) ∧
    (∀ a : Fin 80, t.memGet a.val = s.cfg.font[a.val]) ∧ (∀ a, 80 ≤ a → t.memGet a = 0) ∧
    (∀ c r, t.pixel c r = false) ∧ (∀ k, t.keyDown k = false) ∧ t.dt = 0 ∧ t.st = 0 ∧ t.wait = none

/-! ## Frames of all instructions, and what cannot be seen -/

/-- An instruction changes only the items its row names, for all 35: no instruction writes KEY, only Fx33 and Fx55 write
memory, only Fx0A sets WAIT, only Cxkk draws a random byte, and so on (30_encoding.md R70, 20_memory.md R40, 10_state.md R17
to R25, 42_alu.md R133; that no row has a further effect is the spec's decision D10). -/
def Obligations.InstructionsChangeOnlyTheirParts : Prop :=
  ∀ (i : Instr) (s t : State), exec i s = .next t → OnlyChanges s t i.mayChange

/-- A general register keeps its value unless the access table of 10_state.md R12 lists it as written: the destination, the
flag register, or V[0]..V[x] of Fx65 (R12, R13, D10). -/
def Obligations.RegistersNotNamedKeepTheirValue : Prop :=
  ∀ (i : Instr) (s t : State), exec i s = .next t →
    ∀ k, i.mayWrite s.cfg.fx1eSetsVF k = false → t.getV k = s.getV k

/-- ST influences nothing of the program: two states that differ only in ST step to the same outcome but for ST (10_state.md
R19: no instruction reads it). It compares two runs with the same random byte, which is the model's choice: both draw at the
same count (60_exceptions.md R222, on the spec's decision D13; assumption log 4). -/
def Obligations.SoundTimerIsInvisibleToTheProgram : Prop :=
  ∀ s t : State, SameButSound s t → OutcomesAgree SameButSound (step s) (step t)

/-- A stack entry at or above SP cannot be observed: two states that differ only in dead entries step to the same outcome but
for dead entries (10_state.md R21 and the meaning of SP, on the spec's decision D8; assumption log 14). It compares
two runs with the same random byte, which is the model's choice: both draw at the same count (60_exceptions.md R222, on the
spec's decision D13; assumption log 4). -/
def Obligations.DeadStackEntriesAreInvisible : Prop :=
  ∀ s t : State, SameButDeadStack s t → OutcomesAgree SameButDeadStack (step s) (step t)

/-! ## Control flow -/

/-- 0000 changes nothing beyond the fetch's advance: exec leaves the state, and a step that fetches it moves PC by 2 and no
more (40_flow.md R100, on the spec's decision D9; assumption log 8). -/
def Obligations.NopOnlyAdvancesPC : Prop :=
  (∀ s : State, exec .nop s = .next s) ∧
  ∀ s : State, s.wait = none → s.pc.toNat ≤ 0xFFE → s.memGet s.pc.toNat = 0 → s.memGet (s.pc.toNat + 1) = 0 →
    ∃ t, step s = .next t ∧ t.pc.toNat = s.pc.toNat + 2 ∧ OnlyChanges s t [.pc]

/-- 00EE pops PC, the slot keeping its value, or faults on an empty stack (40_flow.md R101). -/
def Obligations.ReturnPopsThePC : Prop :=
  ∀ s : State,
    (s.sp.val = 0 → exec .ret s = .fault .stackUnderflow) ∧
    (0 < s.sp.val → ∃ t, exec .ret s = .next t ∧ t.sp.val = s.sp.val - 1 ∧
      (∀ j : Fin 16, j.val = s.sp.val - 1 → t.pc = s.stack[j.val]) ∧
      (∀ j : Fin 16, t.stack[j.val] = s.stack[j.val]) ∧ OnlyChanges s t [.stack, .pc])

/-- 1nnn puts nnn into PC (40_flow.md R102). -/
def Obligations.JumpPutsTheAddressInPC : Prop :=
  ∀ (nnn : Addr12) (s : State), ∃ t, exec (.jp nnn) s = .next t ∧ t.pc.toNat = nnn.toNat ∧ OnlyChanges s t [.pc]

/-- 2nnn pushes PC and jumps, or faults when 16 addresses are held (40_flow.md R103, on the spec's decision D8; assumption log
14). -/
def Obligations.CallPushesThePC : Prop :=
  ∀ (nnn : Addr12) (s : State),
    (s.sp.val = 16 → exec (.call nnn) s = .fault .stackOverflow) ∧
    (s.sp.val < 16 → ∃ t, exec (.call nnn) s = .next t ∧ t.sp.val = s.sp.val + 1 ∧ t.pc.toNat = nnn.toNat ∧
      (∀ j : Fin 16, t.stack[j.val] = if j.val = s.sp.val then s.pc else s.stack[j.val]) ∧
      OnlyChanges s t [.stack, .pc])

/-- Bnnn puts nnn + V[0] into PC, not reduced (40_flow.md R104). -/
def Obligations.JumpV0AddsWithoutReduction : Prop :=
  ∀ (nnn : Addr12) (s : State), ∃ t, exec (.jpV0 nnn) s = .next t ∧
    t.pc.toNat = nnn.toNat + (s.getV 0).toNat ∧ OnlyChanges s t [.pc]

/-- A call and then a return resume at the PC the call's fetch left, with SP as before, whatever else happened to the rest of
the state in between (95_test_vectors.md S5, 40_flow.md R101, R103, the push on the spec's decision D8; assumption log 14). -/
def Obligations.ReturnUndoesCall : Prop :=
  ∀ (nnn : Addr12) (s : State), s.sp.val < 16 → ∃ t, exec (.call nnn) s = .next t ∧
    ∀ u : State, u.sp = t.sp → (∀ j : Fin 16, u.stack[j.val] = t.stack[j.val]) →
      ∃ w, exec .ret u = .next w ∧ w.pc = s.pc ∧ w.sp = s.sp

/-! ## Skips -/

/-- 3xkk skips on V[x] = kk and 4xkk on V[x] != kk (41_skip.md R110, R111). -/
def Obligations.ByteSkipsCompareWithTheImmediate : Prop :=
  ∀ (x : RegIdx) (kk : Byte) (s : State),
    (∃ t, exec (.seKk x kk) s = .next t ∧ OnlyChanges s t [.pc] ∧
      t.pc = if (s.getV x).toNat = kk.toNat then s.pc + 2 else s.pc) ∧
    (∃ t, exec (.sneKk x kk) s = .next t ∧ OnlyChanges s t [.pc] ∧
      t.pc = if (s.getV x).toNat = kk.toNat then s.pc else s.pc + 2)

/-- 5xy0 skips on V[x] = V[y] and 9xy0 on V[x] != V[y] (41_skip.md R112, R113). -/
def Obligations.RegisterSkipsCompareTheRegisters : Prop :=
  ∀ (x y : RegIdx) (s : State),
    (∃ t, exec (.seV x y) s = .next t ∧ OnlyChanges s t [.pc] ∧
      t.pc = if (s.getV x).toNat = (s.getV y).toNat then s.pc + 2 else s.pc) ∧
    (∃ t, exec (.sneV x y) s = .next t ∧ OnlyChanges s t [.pc] ∧
      t.pc = if (s.getV x).toNat = (s.getV y).toNat then s.pc else s.pc + 2)

/-! ## Registers -/

/-- 6xkk loads kk, 7xkk adds kk modulo 256 with no flag touched, 8xy0 copies V[y]; V[0xF] is a destination like any other
(42_alu.md R122, R123, R124). -/
def Obligations.LoadsAndByteAddWriteOneRegister : Prop :=
  ∀ (x y : RegIdx) (kk : Byte) (s : State),
    (∃ t, exec (.ldKk x kk) s = .next t ∧ t.getV x = kk ∧ SameRegsBut x s t ∧ OnlyChanges s t [.regs]) ∧
    (∃ t, exec (.addKk x kk) s = .next t ∧ (t.getV x).toNat = ((s.getV x).toNat + kk.toNat) % 256 ∧
      SameRegsBut x s t ∧ OnlyChanges s t [.regs]) ∧
    (∃ t, exec (.ldV x y) s = .next t ∧ t.getV x = s.getV y ∧ SameRegsBut x s t ∧ OnlyChanges s t [.regs])

/-- 8xy1, 8xy2, 8xy3 are the bitwise OR, AND and XOR, and leave V[0xF] alone unless it is the destination (42_alu.md R125,
R126, R127, on the spec's decision D10; assumption log 13). -/
def Obligations.LogicIsBitwiseAndLeavesTheFlag : Prop :=
  ∀ (x y : RegIdx) (s : State),
    (∃ t, exec (.orV x y) s = .next t ∧ SameRegsBut x s t ∧ OnlyChanges s t [.regs] ∧
      ∀ j, (t.getV x).getLsbD j = ((s.getV x).getLsbD j || (s.getV y).getLsbD j)) ∧
    (∃ t, exec (.andV x y) s = .next t ∧ SameRegsBut x s t ∧ OnlyChanges s t [.regs] ∧
      ∀ j, (t.getV x).getLsbD j = ((s.getV x).getLsbD j && (s.getV y).getLsbD j)) ∧
    (∃ t, exec (.xorV x y) s = .next t ∧ SameRegsBut x s t ∧ OnlyChanges s t [.regs] ∧
      ∀ j, (t.getV x).getLsbD j = ((s.getV x).getLsbD j ^^ (s.getV y).getLsbD j))

/-- 8xy4: V[x] is the sum modulo 256 and V[0xF] the carry of the old operands; with x = 0xF the carry remains (42_alu.md
R128; the x = 0xF form rests on R120 and the spec's decision D11, assumption log 7). -/
def Obligations.AddSetsSumThenCarry : Prop :=
  ∀ (x y : RegIdx) (s : State), ∃ t, exec (.addV x y) s = .next t ∧
    (x ≠ vf → (t.getV x).toNat = ((s.getV x).toNat + (s.getV y).toNat) % 256) ∧
    (t.getV vf).toNat = (if (s.getV x).toNat + (s.getV y).toNat > 255 then 1 else 0) ∧
    (∀ k, k ≠ x → k ≠ vf → t.getV k = s.getV k) ∧ OnlyChanges s t [.regs]

/-- 8xy5 and 8xy7: the difference modulo 256, and V[0xF] 1 exactly when there is no borrow, on the old operands; with x = 0xF
the flag remains (42_alu.md R129, R131; the x = 0xF form rests on R120 and D11, assumption log 7). -/
def Obligations.SubtractionsSetDifferenceThenNoBorrow : Prop :=
  ∀ (x y : RegIdx) (s : State),
    (∃ t, exec (.subV x y) s = .next t ∧
      (x ≠ vf → (t.getV x).toNat = ((s.getV x).toNat + 256 - (s.getV y).toNat) % 256) ∧
      (t.getV vf).toNat = (if (s.getV x).toNat ≥ (s.getV y).toNat then 1 else 0) ∧
      (∀ k, k ≠ x → k ≠ vf → t.getV k = s.getV k) ∧ OnlyChanges s t [.regs]) ∧
    (∃ t, exec (.subnV x y) s = .next t ∧
      (x ≠ vf → (t.getV x).toNat = ((s.getV y).toNat + 256 - (s.getV x).toNat) % 256) ∧
      (t.getV vf).toNat = (if (s.getV y).toNat ≥ (s.getV x).toNat then 1 else 0) ∧
      (∀ k, k ≠ x → k ≠ vf → t.getV k = s.getV k) ∧ OnlyChanges s t [.regs])

/-- 8xy6 and 8xyE shift V[x] by one place, the bit shifted out to V[0xF]; y plays no part, and with x = 0xF the bit remains
(42_alu.md R130, R132, 30_encoding.md R73; the x = 0xF form rests on R120 and D11, assumption log 7). -/
def Obligations.ShiftsMoveOneBitIntoTheFlag : Prop :=
  ∀ (x y : RegIdx) (s : State),
    (∃ t, exec (.shr x y) s = .next t ∧ (x ≠ vf → (t.getV x).toNat = (s.getV x).toNat / 2) ∧
      (t.getV vf).toNat = (s.getV x).toNat % 2 ∧
      (∀ k, k ≠ x → k ≠ vf → t.getV k = s.getV k) ∧ OnlyChanges s t [.regs]) ∧
    (∃ t, exec (.shl x y) s = .next t ∧ (x ≠ vf → (t.getV x).toNat = ((s.getV x).toNat * 2) % 256) ∧
      (t.getV vf).toNat = (s.getV x).toNat / 128 ∧
      (∀ k, k ≠ x → k ≠ vf → t.getV k = s.getV k) ∧ OnlyChanges s t [.regs])

/-- Cxkk: V[x] is the next random byte AND kk, so it has no bit outside kk and is at most kk, whatever the byte is; exactly
one byte is drawn (42_alu.md R133, 60_exceptions.md R222; the byte is the model's free value, D13, assumption log 4). -/
def Obligations.RandomIsMaskedByTheImmediate : Prop :=
  ∀ (x : RegIdx) (kk : Byte) (s : State), ∃ t, exec (.rnd x kk) s = .next t ∧
    t.getV x = Config.randByte s.draws &&& kk ∧ (t.getV x &&& ~~~kk) = 0 ∧ (t.getV x).toNat ≤ kk.toNat ∧
    t.draws = s.draws + 1 ∧ SameRegsBut x s t ∧ OnlyChanges s t [.regs, .draws]

/-! ## The index register and memory -/

/-- Annn puts nnn into I (43_index_memory.md R140). -/
def Obligations.LoadIndexPutsTheAddressInI : Prop :=
  ∀ (nnn : Addr12) (s : State), ∃ t, exec (.ldI nnn) s = .next t ∧ t.i.toNat = nnn.toNat ∧ OnlyChanges s t [.index]

/-- Fx1E adds V[x] to I modulo 4096; V[0xF] is the overflow of the old operands when the configuration says so, and untouched
when it does not (43_index_memory.md R141, for both values of the parameter of D12; assumption log 3). -/
def Obligations.AddIndexWrapsAt4096 : Prop :=
  ∀ (x : RegIdx) (s : State), ∃ t, exec (.addI x) s = .next t ∧
    t.i.toNat = (s.i.toNat + (s.getV x).toNat) % 4096 ∧
    (s.cfg.fx1eSetsVF = false → ∀ k, t.getV k = s.getV k) ∧
    (s.cfg.fx1eSetsVF = true →
      (t.getV vf).toNat = (if s.i.toNat + (s.getV x).toNat > 0xFFF then 1 else 0) ∧ SameRegsBut vf s t) ∧
    OnlyChanges s t [.index, .regs]

/-- Fx29 puts V[x] * 5 into I, V[x] unmasked (43_index_memory.md R142, on the spec's decision D29; assumption log 13). -/
def Obligations.GlyphAddressIsFiveTimesTheDigit : Prop :=
  ∀ (x : RegIdx) (s : State), ∃ t, exec (.ldF x) s = .next t ∧ t.i.toNat = (s.getV x).toNat * 5 ∧
    OnlyChanges s t [.index]

/-- Fx33 stores hundreds, tens and ones of V[x] at I, I + 1, I + 2 and no other byte, I unchanged, or faults when I + 2 is
beyond 0xFFF (43_index_memory.md R143). -/
def Obligations.DecimalStoreWritesThreeDigits : Prop :=
  ∀ (x : RegIdx) (s : State),
    (s.i.toNat + 2 > 0xFFF → exec (.ldB x) s = .fault .outOfBounds) ∧
    (s.i.toNat + 2 ≤ 0xFFF → ∃ t, exec (.ldB x) s = .next t ∧ OnlyChanges s t [.memory] ∧
      (s.MemWf →
        (t.memGet s.i.toNat).toNat = (s.getV x).toNat / 100 ∧
        (t.memGet (s.i.toNat + 1)).toNat = (s.getV x).toNat / 10 % 10 ∧
        (t.memGet (s.i.toNat + 2)).toNat = (s.getV x).toNat % 10 ∧
        ∀ a, (a < s.i.toNat ∨ s.i.toNat + 2 < a) → t.memGet a = s.memGet a))

/-- Fx55 stores V[k] at I + k for every k up to x and no other byte, I unchanged, or faults when I + x is beyond 0xFFF
(43_index_memory.md R144; that I does not move is also D10, assumption log 13). -/
def Obligations.RegisterStoreWritesV0ThroughVx : Prop :=
  ∀ (x : RegIdx) (s : State),
    (s.i.toNat + x.val > 0xFFF → exec (.stRegs x) s = .fault .outOfBounds) ∧
    (s.i.toNat + x.val ≤ 0xFFF → ∃ t, exec (.stRegs x) s = .next t ∧ OnlyChanges s t [.memory] ∧
      (s.MemWf →
        (∀ k : RegIdx, k ≤ x → t.memGet (s.i.toNat + k.val) = s.getV k) ∧
        ∀ a, (a < s.i.toNat ∨ s.i.toNat + x.val < a) → t.memGet a = s.memGet a))

/-- Fx65 loads MEM[I + k] into V[k] for every k up to x and no other register, memory and I unchanged, or faults when I + x is
beyond 0xFFF (43_index_memory.md R145; that I does not move is also D10, assumption log 13). -/
def Obligations.RegisterLoadReadsV0ThroughVx : Prop :=
  ∀ (x : RegIdx) (s : State),
    (s.i.toNat + x.val > 0xFFF → exec (.ldRegs x) s = .fault .outOfBounds) ∧
    (s.i.toNat + x.val ≤ 0xFFF → ∃ t, exec (.ldRegs x) s = .next t ∧ OnlyChanges s t [.regs] ∧
      (∀ k : RegIdx, k ≤ x → t.getV k = s.memGet (s.i.toNat + k.val)) ∧
      ∀ k : RegIdx, x < k → t.getV k = s.getV k)

/-- Fx55 and then Fx65 from the same address bring V[0]..V[x] back, whatever happened to the rest of the state in between
(95_test_vectors.md S4, 43_index_memory.md R144, R145). -/
def Obligations.LoadAfterStoreRestoresTheRegisters : Prop :=
  ∀ (x : RegIdx) (s : State), s.MemWf → s.i.toNat + x.val ≤ 0xFFF → ∃ t, exec (.stRegs x) s = .next t ∧
    ∀ u : State, u.i = t.i → (∀ a, u.memGet a = t.memGet a) →
      ∃ w, exec (.ldRegs x) u = .next w ∧ (∀ k : RegIdx, k ≤ x → w.getV k = s.getV k) ∧
        ∀ k : RegIdx, x < k → w.getV k = u.getV k

/-- Self-modifying code: bytes stored over the instruction that follows are what the very next step executes
(20_memory.md R53). -/
def Obligations.StoredCodeRunsAtTheNextStep : Prop :=
  ∀ (x : RegIdx) (s : State), s.MemWf → 1 ≤ x.val → s.wait = none → s.i = s.pc → s.i.toNat + x.val ≤ 0xFFF →
    ∃ t, exec (.stRegs x) s = .next t ∧ step t = execute (s.getV 0 ++ s.getV 1) (t.setPC (s.pc + 2))

/-- A byte written is read back, every other byte reads as before, and neither access reaches beyond 0xFFF (20_memory.md R44,
R45). -/
def Obligations.ByteReadsBackAsWritten : Prop :=
  ∀ (s : State) (a : Nat) (b : Byte),
    (a > 0xFFF → s.memWrite a b = .error .outOfBounds ∧ s.memRead a = .error .outOfBounds) ∧
    (a ≤ 0xFFF → ∃ t, s.memWrite a b = .ok t ∧ OnlyChanges s t [.memory] ∧
      (s.MemWf → t.MemWf ∧ t.memRead a = .ok b ∧ ∀ c, c ≠ a → t.memRead c = s.memRead c))

/-- Checking a range as a whole is the same as reading or writing it byte by byte, since a fault leaves no state
(20_memory.md R47, on the spec's decision D6; assumption log 12). -/
def Obligations.WholeRangeCheckEqualsByteByByte : Prop :=
  ∀ (s : State) (a : Nat),
    (∀ n, s.readRange a n = s.readEach a n) ∧ ∀ bs, s.writeRange a bs = s.writeEach a bs

/-! ## The display -/

/-- 00E0 turns every pixel off and nothing else changes (44_display.md R150). -/
def Obligations.ClearTurnsEveryPixelOff : Prop :=
  ∀ s : State, ∃ t, exec .cls s = .next t ∧ (∀ c r, t.pixel c r = false) ∧
    t.framebuffer = List.replicate 2048 false ∧ OnlyChanges s t [.screen]

/-- Dxyn inverts exactly the pixels under the sprite's 1 bits, each axis wrapped, and V[0xF] is 1 exactly when one of them was
on; or faults when the last sprite byte lies beyond 0xFFF (44_display.md R151, R152, R153, on the spec's decisions D15, D16;
assumption log 11). -/
def Obligations.DrawInvertsThePixelsUnderTheSprite : Prop :=
  ∀ (x y : RegIdx) (n : Nat) (s : State), n ≤ 15 →
    (n ≥ 1 ∧ s.i.toNat + n - 1 > 0xFFF → exec (.drw x y n) s = .fault .outOfBounds) ∧
    (¬ (n ≥ 1 ∧ s.i.toNat + n - 1 > 0xFFF) → ∃ t, exec (.drw x y n) s = .next t ∧
      (∀ c r, s.spriteCovers x y n c r → t.pixel c r = !s.pixel c r) ∧
      (∀ c r, ¬ s.spriteCovers x y n c r → t.pixel c r = s.pixel c r) ∧
      ((∃ c r, s.spriteCovers x y n c r ∧ s.pixel c r = true) → t.getV vf = 1) ∧
      (¬ (∃ c r, s.spriteCovers x y n c r ∧ s.pixel c r = true) → t.getV vf = 0) ∧
      SameRegsBut vf s t ∧ OnlyChanges s t [.screen, .regs])

/-- Drawing the same sprite twice restores the screen. The second draw sets V[0xF] exactly when some pixel under a 1 bit was
off before the first, as 44_display.md R151 computes it; on a clear screen that is when the sprite has a 1 bit at all, as R153
(2) says without that condition (x and y not 0xF; assumption log 20). -/
def Obligations.DrawingTwiceRestoresTheScreen : Prop :=
  ∀ (x y : RegIdx) (n : Nat) (s : State), n ≤ 15 → x ≠ vf → y ≠ vf → ¬ (n ≥ 1 ∧ s.i.toNat + n - 1 > 0xFFF) →
    ∃ t, exec (.drw x y n) s = .next t ∧ ∀ pc, ∃ u, exec (.drw x y n) (t.setPC pc) = .next u ∧
      (∀ c r, u.pixel c r = s.pixel c r) ∧
      (u.getV vf = 1 ↔ ∃ c r, s.spriteCovers x y n c r ∧ s.pixel c r = false) ∧
      ((∀ c r, s.pixel c r = false) → (u.getV vf = 1 ↔ ∃ j k, j < n ∧ k < 8 ∧ s.spriteBit j k = true))

/-! ## Keypad and timers -/

/-- Ex9E skips when the key numbered by the low four bits of V[x] is down and ExA1 when it is up (45_keypad_timers.md R160,
R161, R166, the low four bits on the spec's decision D21; assumption log 10). -/
def Obligations.KeySkipsTestTheSelectedKey : Prop :=
  ∀ (x : RegIdx) (s : State) (k : KeyIdx), k.val = (s.getV x).toNat % 16 →
    (∃ t, exec (.skp x) s = .next t ∧ OnlyChanges s t [.pc] ∧
      t.pc = if s.keyDown k = true then s.pc + 2 else s.pc) ∧
    (∃ t, exec (.sknp x) s = .next t ∧ OnlyChanges s t [.pc] ∧
      t.pc = if s.keyDown k = true then s.pc else s.pc + 2)

/-- Fx07 reads DT into V[x], Fx15 writes DT from V[x], Fx18 writes ST from V[x] (45_keypad_timers.md R163, R164, R165). -/
def Obligations.TimerInstructionsCopyOneByte : Prop :=
  ∀ (x : RegIdx) (s : State),
    (∃ t, exec (.ldVxDT x) s = .next t ∧ t.getV x = s.dt ∧ SameRegsBut x s t ∧ OnlyChanges s t [.regs]) ∧
    (∃ t, exec (.ldDTVx x) s = .next t ∧ t.dt = s.getV x ∧ OnlyChanges s t [.delayTimer]) ∧
    (∃ t, exec (.ldSTVx x) s = .next t ∧ t.st = s.getV x ∧ OnlyChanges s t [.soundTimer])

/-- Fx0A only arms the wait: WAIT becomes some(x), V[x] and PC are not written (45_keypad_timers.md R162, on the spec's
decision D17; assumption log 9). -/
def Obligations.KeyWaitIsOnlyArmed : Prop :=
  ∀ (x : RegIdx) (s : State), ∃ t, exec (.ldVxK x) s = .next t ∧ t.wait = some x ∧ OnlyChanges s t [.wait]

/-! ## The host's operations -/

/-- k ticks take each timer down by k, never below zero, and change nothing else: a timer at v reaches 0 after exactly v ticks
(60_exceptions.md R215, R216). -/
def Obligations.TicksCountTheTimersDown : Prop :=
  ∀ (s : State),
    HostOp.tickTimers.applyLive s = .next (.live s.tickTimers, .ok) ∧
    ∀ k : Nat,
      ((State.tickTimers^[k]) s).dt.toNat = s.dt.toNat - k ∧ ((State.tickTimers^[k]) s).st.toNat = s.st.toNat - k ∧
      OnlyChanges s ((State.tickTimers^[k]) s) [.delayTimer, .soundTimer]

/-- load copies the image to MEM[0x200..] and writes nothing else; an image longer than 3584 bytes is refused with LoadError
and the prior state stands (70_reset_and_hazards.md R243, R244, 60_exceptions.md R207). -/
def Obligations.LoadCopiesTheImageOrRefusesIt : Prop :=
  ∀ (s : State) (rom : List Byte),
    (rom.length > 3584 → (HostOp.load rom).applyLive s = .next (.live s, .error .loadError)) ∧
    (rom.length ≤ 3584 → ∃ t, (HostOp.load rom).applyLive s = .next (.live t, .ok) ∧ OnlyChanges s t [.memory] ∧
      (s.MemWf → (∀ j, j < rom.length → t.memGet (0x200 + j) = rom.getD j 0) ∧
        ∀ a, (a < 0x200 ∨ 0x200 + rom.length ≤ a) → t.memGet a = s.memGet a))

/-- The boot sequence, from a live machine or after a fault: reset and then load leave the launch state, whose first step
executes the first two bytes of the image (70_reset_and_hazards.md R245 (1), (2); 30_encoding.md R66). -/
def Obligations.BootLeavesTheLaunchState : Prop :=
  ∀ (x : Session) (rom : List Byte), rom.length ≤ 3584 →
    ∃ t, Session.run [.reset, .load rom] x = .next (.live t, [.ok, .ok]) ∧
      t.pc.toNat = 0x200 ∧ (∀ k, t.getV k = 0) ∧ t.i = 0 ∧ t.sp.val = 0 ∧ t.dt = 0 ∧ t.st = 0 ∧
      (∀ c r, t.pixel c r = false) ∧ (∀ k, t.keyDown k = false) ∧ t.wait = none ∧
      (∀ j, j < rom.length → t.memGet (0x200 + j) = rom.getD j 0) ∧
      (∀ a : Fin 80, t.memGet a.val = t.cfg.font[a.val]) ∧
      (∀ a, 80 ≤ a → (a < 0x200 ∨ 0x200 + rom.length ≤ a) → t.memGet a = 0) ∧
      (2 ≤ rom.length → step t = execute (rom.getD 0 0 ++ rom.getD 1 0) (t.setPC 0x202))

/-- set_key sets the one latch and changes nothing else, the wait included (60_exceptions.md R218, the key number a four-bit
input on the spec's decision D22). -/
def Obligations.SetKeySetsOneLatch : Prop :=
  ∀ (s : State) (k : KeyIdx) (pressed : Bool), ∃ t, (HostOp.setKey k pressed).applyLive s = .next (.live t, .ok) ∧
    t.keyDown k = pressed ∧ (∀ q, q ≠ k → t.keyDown q = s.keyDown q) ∧ OnlyChanges s t [.keys]

/-- framebuffer() gives the 2048 pixels in row-major order and is_sounding() gives ST > 0, true before the tick that takes ST
from 1 to 0 and false after it; neither changes the state (60_exceptions.md R217, R219). -/
def Obligations.HostViewsReadTheScreenAndTheSound : Prop :=
  ∀ s : State,
    (∃ view : List Bool, HostOp.framebuffer.applyLive s = .next (.live s, .pixels view) ∧ view.length = 2048 ∧
      ∀ (c : Column) (r : Row), view[r.val * 64 + c.val]? = some (s.pixel c r)) ∧
    (∃ b : Bool, HostOp.isSounding.applyLive s = .next (.live s, .sounding b) ∧ (b = true ↔ s.st.toNat > 0)) ∧
    (s.st.toNat = 1 → s.isSounding = true ∧ s.tickTimers.isSounding = false)

/-- A step that faults answers the host with the fault and leaves no state; after it the spec defines reset and no other
operation (60_exceptions.md R205, R213, on the spec's decision D3; assumption log 6). -/
def Obligations.OnlyResetIsDefinedAfterAFault : Prop :=
  ∀ (s : State) (f : Fault), step s = .fault f →
    ∃ x, HostOp.fetchAndExecute.applyLive s = .next (x, .error f) ∧
      x.apply .reset = .next (.live (State.powerOn s.cfg s.draws), .ok) ∧
      ∀ op : HostOp, op ≠ .reset → x.apply op = .refused .undefinedAfterFault

/-- In an end state, a self-jump at PC with no key awaited, every step leaves the whole state unchanged (70_reset_and_hazards.md
R256, whose definition of an end state is the spec's decision D28; 40_flow.md R102). -/
def Obligations.EndOfRunIsAFixedPoint : Prop :=
  ∀ s : State, s.EndOfRun → step s = .next s
end

