-- ==== Sys2Proof/Laws/Decode.lean ====
section
/-! SUPPORT. The fields of the encoder's formats, and a word put together again from its fields (spec/30_encoding.md R62,
R63). -/

namespace Sys2Proof

/-! ## The fields of a format -/

@[simp] theorem opClass_formatNNN (cls : BitVec 4) (nnn : Addr12) : opClass (formatNNN cls nnn) = cls := by
  show BitVec.extractLsb' (n := 4 + 12) 12 4 (cls ++ nnn) = cls
  rw [BitVec.extractLsb'_append_eq_of_le (by decide)]
  exact BitVec.extractLsb'_eq_self

@[simp] theorem fieldNnn_formatNNN (cls : BitVec 4) (nnn : Addr12) : fieldNnn (formatNNN cls nnn) = nnn := by
  show BitVec.extractLsb' (n := 4 + 12) 0 12 (cls ++ nnn) = nnn
  rw [BitVec.extractLsb'_append_eq_of_add_le (by decide)]
  exact BitVec.extractLsb'_eq_self

@[simp] theorem opClass_formatXKK (cls : BitVec 4) (x : RegIdx) (kk : Byte) : opClass (formatXKK cls x kk) = cls :=
  opClass_formatNNN cls (regBits x ++ kk)

@[simp] theorem fieldX_formatXKK (cls : BitVec 4) (x : RegIdx) (kk : Byte) : fieldX (formatXKK cls x kk) = x := by
  have h : BitVec.extractLsb' (n := 4 + (4 + 8)) 8 4 (cls ++ (regBits x ++ kk)) = regBits x := by
    rw [BitVec.extractLsb'_append_eq_of_add_le (by decide), BitVec.extractLsb'_append_eq_of_le (by decide)]
    exact BitVec.extractLsb'_eq_self
  exact congrArg BitVec.toFin h

@[simp] theorem fieldKk_formatXKK (cls : BitVec 4) (x : RegIdx) (kk : Byte) : fieldKk (formatXKK cls x kk) = kk := by
  show BitVec.extractLsb' (n := 4 + (4 + 8)) 0 8 (cls ++ (regBits x ++ kk)) = kk
  rw [BitVec.extractLsb'_append_eq_of_add_le (by decide), BitVec.extractLsb'_append_eq_of_add_le (by decide)]
  exact BitVec.extractLsb'_eq_self

@[simp] theorem opClass_formatXY (cls : BitVec 4) (x y : RegIdx) (sel : BitVec 4) : opClass (formatXY cls x y sel) = cls :=
  opClass_formatNNN cls (regBits x ++ (regBits y ++ sel))

@[simp] theorem fieldX_formatXY (cls : BitVec 4) (x y : RegIdx) (sel : BitVec 4) : fieldX (formatXY cls x y sel) = x :=
  fieldX_formatXKK cls x (regBits y ++ sel)

@[simp] theorem fieldY_formatXY (cls : BitVec 4) (x y : RegIdx) (sel : BitVec 4) : fieldY (formatXY cls x y sel) = y := by
  have h : BitVec.extractLsb' (n := 4 + (4 + (4 + 4))) 4 4 (cls ++ (regBits x ++ (regBits y ++ sel))) = regBits y := by
    rw [BitVec.extractLsb'_append_eq_of_add_le (by decide), BitVec.extractLsb'_append_eq_of_add_le (by decide),
      BitVec.extractLsb'_append_eq_of_le (by decide)]
    exact BitVec.extractLsb'_eq_self
  exact congrArg BitVec.toFin h

@[simp] theorem selector_formatXY (cls : BitVec 4) (x y : RegIdx) (sel : BitVec 4) : selector (formatXY cls x y sel) = sel := by
  show BitVec.extractLsb' (n := 4 + (4 + (4 + 4))) 0 4 (cls ++ (regBits x ++ (regBits y ++ sel))) = sel
  rw [BitVec.extractLsb'_append_eq_of_add_le (by decide), BitVec.extractLsb'_append_eq_of_add_le (by decide),
    BitVec.extractLsb'_append_eq_of_add_le (by decide)]
  exact BitVec.extractLsb'_eq_self

/-! ## The fields as numbers (spec/30_encoding.md R62) -/

theorem opClass_toNat (op : Word) : (opClass op).toNat = op.toNat / 4096 := by
  have := op.isLt
  simp [opClass, Nat.shiftRight_eq_div_pow]
  omega

theorem fieldX_val (op : Word) : (fieldX op).val = op.toNat / 256 % 16 := by
  simp [fieldX, Nat.shiftRight_eq_div_pow]

theorem fieldY_val (op : Word) : (fieldY op).val = op.toNat / 16 % 16 := by
  simp [fieldY, Nat.shiftRight_eq_div_pow]

theorem selector_toNat (op : Word) : (selector op).toNat = op.toNat % 16 := by simp [selector]

theorem fieldKk_toNat (op : Word) : (fieldKk op).toNat = op.toNat % 256 := by simp [fieldKk]

theorem fieldNnn_toNat (op : Word) : (fieldNnn op).toNat = op.toNat % 4096 := by simp [fieldNnn]

/-- The number of a word put together from two parts. -/
theorem toNat_append_add {m n : Nat} (a : BitVec m) (b : BitVec n) : (a ++ b).toNat = a.toNat * 2 ^ n + b.toNat := by
  rw [BitVec.toNat_append, ← Nat.shiftLeft_add_eq_or_of_lt b.isLt, Nat.shiftLeft_eq]

/-! ## A word from its fields -/

theorem formatNNN_fields (op : Word) : formatNNN (opClass op) (fieldNnn op) = op := by
  apply BitVec.eq_of_toNat_eq
  rw [formatNNN, toNat_append_add, opClass_toNat, fieldNnn_toNat]
  omega

theorem formatXKK_fields (op : Word) : formatXKK (opClass op) (fieldX op) (fieldKk op) = op := by
  apply BitVec.eq_of_toNat_eq
  rw [formatXKK, toNat_append_add, toNat_append_add, opClass_toNat, fieldKk_toNat]
  have := fieldX_val op
  have := op.isLt
  simp only [regBits, BitVec.toNat_ofFin]
  omega

theorem formatXY_fields (op : Word) : formatXY (opClass op) (fieldX op) (fieldY op) (selector op) = op := by
  apply BitVec.eq_of_toNat_eq
  rw [formatXY, toNat_append_add, toNat_append_add, toNat_append_add, opClass_toNat, selector_toNat]
  have := fieldX_val op
  have := fieldY_val op
  have := op.isLt
  simp only [regBits, BitVec.toNat_ofFin]
  omega

/-! ## Bytes (spec/20_memory.md R48) -/

theorem wordOfBytes_high_low (op : Word) : wordOfBytes (highByte op) (lowByte op) = op := by
  apply BitVec.eq_of_toNat_eq
  have := op.isLt
  rw [wordOfBytes, toNat_append_add]
  simp [highByte, lowByte, Nat.shiftRight_eq_div_pow]
  omega

end Sys2Proof
end

