-- ==== Sys2Proof/Laws/State.lean ====
section
/-! SUPPORT. One lemma per field (and per reading of a field) per update of the state, true by rfl, so that no later proof
unfolds a record update. -/

namespace Sys2Proof.Machine

variable (s : State)

/-! ## setV -/

@[simp] theorem setV_v (x : RegIdx) (b : Byte) : (s.setV x b).v = s.v.set x.val b := rfl
@[simp] theorem setV_i (x : RegIdx) (b : Byte) : (s.setV x b).i = s.i := rfl
@[simp] theorem setV_pc (x : RegIdx) (b : Byte) : (s.setV x b).pc = s.pc := rfl
@[simp] theorem setV_sp (x : RegIdx) (b : Byte) : (s.setV x b).sp = s.sp := rfl
@[simp] theorem setV_stack (x : RegIdx) (b : Byte) : (s.setV x b).stack = s.stack := rfl
@[simp] theorem setV_mem (x : RegIdx) (b : Byte) : (s.setV x b).mem = s.mem := rfl
@[simp] theorem setV_fb (x : RegIdx) (b : Byte) : (s.setV x b).fb = s.fb := rfl
@[simp] theorem setV_key (x : RegIdx) (b : Byte) : (s.setV x b).key = s.key := rfl
@[simp] theorem setV_dt (x : RegIdx) (b : Byte) : (s.setV x b).dt = s.dt := rfl
@[simp] theorem setV_st (x : RegIdx) (b : Byte) : (s.setV x b).st = s.st := rfl
@[simp] theorem setV_wait (x : RegIdx) (b : Byte) : (s.setV x b).wait = s.wait := rfl
@[simp] theorem setV_cfg (x : RegIdx) (b : Byte) : (s.setV x b).cfg = s.cfg := rfl
@[simp] theorem setV_draws (x : RegIdx) (b : Byte) : (s.setV x b).draws = s.draws := rfl
@[simp] theorem setV_memGet (x : RegIdx) (b : Byte) (n : Nat) : (s.setV x b).memGet n = s.memGet n := rfl
@[simp] theorem setV_pixel (x : RegIdx) (b : Byte) (c : Column) (r : Row) : (s.setV x b).pixel c r = s.pixel c r := rfl
@[simp] theorem setV_keyDown (x : RegIdx) (b : Byte) (q : KeyIdx) : (s.setV x b).keyDown q = s.keyDown q := rfl

/-! ## setI -/

@[simp] theorem setI_v (a : Word) : (s.setI a).v = s.v := rfl
@[simp] theorem setI_i (a : Word) : (s.setI a).i = a := rfl
@[simp] theorem setI_pc (a : Word) : (s.setI a).pc = s.pc := rfl
@[simp] theorem setI_sp (a : Word) : (s.setI a).sp = s.sp := rfl
@[simp] theorem setI_stack (a : Word) : (s.setI a).stack = s.stack := rfl
@[simp] theorem setI_mem (a : Word) : (s.setI a).mem = s.mem := rfl
@[simp] theorem setI_fb (a : Word) : (s.setI a).fb = s.fb := rfl
@[simp] theorem setI_key (a : Word) : (s.setI a).key = s.key := rfl
@[simp] theorem setI_dt (a : Word) : (s.setI a).dt = s.dt := rfl
@[simp] theorem setI_st (a : Word) : (s.setI a).st = s.st := rfl
@[simp] theorem setI_wait (a : Word) : (s.setI a).wait = s.wait := rfl
@[simp] theorem setI_cfg (a : Word) : (s.setI a).cfg = s.cfg := rfl
@[simp] theorem setI_draws (a : Word) : (s.setI a).draws = s.draws := rfl
@[simp] theorem setI_getV (a : Word) (k : RegIdx) : (s.setI a).getV k = s.getV k := rfl
@[simp] theorem setI_memGet (a : Word) (n : Nat) : (s.setI a).memGet n = s.memGet n := rfl
@[simp] theorem setI_pixel (a : Word) (c : Column) (r : Row) : (s.setI a).pixel c r = s.pixel c r := rfl
@[simp] theorem setI_keyDown (a : Word) (q : KeyIdx) : (s.setI a).keyDown q = s.keyDown q := rfl

/-! ## setPC -/

@[simp] theorem setPC_v (a : Word) : (s.setPC a).v = s.v := rfl
@[simp] theorem setPC_i (a : Word) : (s.setPC a).i = s.i := rfl
@[simp] theorem setPC_pc (a : Word) : (s.setPC a).pc = a := rfl
@[simp] theorem setPC_sp (a : Word) : (s.setPC a).sp = s.sp := rfl
@[simp] theorem setPC_stack (a : Word) : (s.setPC a).stack = s.stack := rfl
@[simp] theorem setPC_mem (a : Word) : (s.setPC a).mem = s.mem := rfl
@[simp] theorem setPC_fb (a : Word) : (s.setPC a).fb = s.fb := rfl
@[simp] theorem setPC_key (a : Word) : (s.setPC a).key = s.key := rfl
@[simp] theorem setPC_dt (a : Word) : (s.setPC a).dt = s.dt := rfl
@[simp] theorem setPC_st (a : Word) : (s.setPC a).st = s.st := rfl
@[simp] theorem setPC_wait (a : Word) : (s.setPC a).wait = s.wait := rfl
@[simp] theorem setPC_cfg (a : Word) : (s.setPC a).cfg = s.cfg := rfl
@[simp] theorem setPC_draws (a : Word) : (s.setPC a).draws = s.draws := rfl
@[simp] theorem setPC_getV (a : Word) (k : RegIdx) : (s.setPC a).getV k = s.getV k := rfl
@[simp] theorem setPC_memGet (a : Word) (n : Nat) : (s.setPC a).memGet n = s.memGet n := rfl
@[simp] theorem setPC_pixel (a : Word) (c : Column) (r : Row) : (s.setPC a).pixel c r = s.pixel c r := rfl
@[simp] theorem setPC_keyDown (a : Word) (q : KeyIdx) : (s.setPC a).keyDown q = s.keyDown q := rfl

/-! ## setDT -/

@[simp] theorem setDT_v (b : Byte) : (s.setDT b).v = s.v := rfl
@[simp] theorem setDT_i (b : Byte) : (s.setDT b).i = s.i := rfl
@[simp] theorem setDT_pc (b : Byte) : (s.setDT b).pc = s.pc := rfl
@[simp] theorem setDT_sp (b : Byte) : (s.setDT b).sp = s.sp := rfl
@[simp] theorem setDT_stack (b : Byte) : (s.setDT b).stack = s.stack := rfl
@[simp] theorem setDT_mem (b : Byte) : (s.setDT b).mem = s.mem := rfl
@[simp] theorem setDT_fb (b : Byte) : (s.setDT b).fb = s.fb := rfl
@[simp] theorem setDT_key (b : Byte) : (s.setDT b).key = s.key := rfl
@[simp] theorem setDT_dt (b : Byte) : (s.setDT b).dt = b := rfl
@[simp] theorem setDT_st (b : Byte) : (s.setDT b).st = s.st := rfl
@[simp] theorem setDT_wait (b : Byte) : (s.setDT b).wait = s.wait := rfl
@[simp] theorem setDT_cfg (b : Byte) : (s.setDT b).cfg = s.cfg := rfl
@[simp] theorem setDT_draws (b : Byte) : (s.setDT b).draws = s.draws := rfl
@[simp] theorem setDT_getV (b : Byte) (k : RegIdx) : (s.setDT b).getV k = s.getV k := rfl
@[simp] theorem setDT_memGet (b : Byte) (n : Nat) : (s.setDT b).memGet n = s.memGet n := rfl
@[simp] theorem setDT_pixel (b : Byte) (c : Column) (r : Row) : (s.setDT b).pixel c r = s.pixel c r := rfl
@[simp] theorem setDT_keyDown (b : Byte) (q : KeyIdx) : (s.setDT b).keyDown q = s.keyDown q := rfl

/-! ## setST -/

@[simp] theorem setST_v (b : Byte) : (s.setST b).v = s.v := rfl
@[simp] theorem setST_i (b : Byte) : (s.setST b).i = s.i := rfl
@[simp] theorem setST_pc (b : Byte) : (s.setST b).pc = s.pc := rfl
@[simp] theorem setST_sp (b : Byte) : (s.setST b).sp = s.sp := rfl
@[simp] theorem setST_stack (b : Byte) : (s.setST b).stack = s.stack := rfl
@[simp] theorem setST_mem (b : Byte) : (s.setST b).mem = s.mem := rfl
@[simp] theorem setST_fb (b : Byte) : (s.setST b).fb = s.fb := rfl
@[simp] theorem setST_key (b : Byte) : (s.setST b).key = s.key := rfl
@[simp] theorem setST_dt (b : Byte) : (s.setST b).dt = s.dt := rfl
@[simp] theorem setST_st (b : Byte) : (s.setST b).st = b := rfl
@[simp] theorem setST_wait (b : Byte) : (s.setST b).wait = s.wait := rfl
@[simp] theorem setST_cfg (b : Byte) : (s.setST b).cfg = s.cfg := rfl
@[simp] theorem setST_draws (b : Byte) : (s.setST b).draws = s.draws := rfl
@[simp] theorem setST_getV (b : Byte) (k : RegIdx) : (s.setST b).getV k = s.getV k := rfl
@[simp] theorem setST_memGet (b : Byte) (n : Nat) : (s.setST b).memGet n = s.memGet n := rfl
@[simp] theorem setST_pixel (b : Byte) (c : Column) (r : Row) : (s.setST b).pixel c r = s.pixel c r := rfl
@[simp] theorem setST_keyDown (b : Byte) (q : KeyIdx) : (s.setST b).keyDown q = s.keyDown q := rfl

/-! ## setWait -/

@[simp] theorem setWait_v (w : Option RegIdx) : (s.setWait w).v = s.v := rfl
@[simp] theorem setWait_i (w : Option RegIdx) : (s.setWait w).i = s.i := rfl
@[simp] theorem setWait_pc (w : Option RegIdx) : (s.setWait w).pc = s.pc := rfl
@[simp] theorem setWait_sp (w : Option RegIdx) : (s.setWait w).sp = s.sp := rfl
@[simp] theorem setWait_stack (w : Option RegIdx) : (s.setWait w).stack = s.stack := rfl
@[simp] theorem setWait_mem (w : Option RegIdx) : (s.setWait w).mem = s.mem := rfl
@[simp] theorem setWait_fb (w : Option RegIdx) : (s.setWait w).fb = s.fb := rfl
@[simp] theorem setWait_key (w : Option RegIdx) : (s.setWait w).key = s.key := rfl
@[simp] theorem setWait_dt (w : Option RegIdx) : (s.setWait w).dt = s.dt := rfl
@[simp] theorem setWait_st (w : Option RegIdx) : (s.setWait w).st = s.st := rfl
@[simp] theorem setWait_wait (w : Option RegIdx) : (s.setWait w).wait = w := rfl
@[simp] theorem setWait_cfg (w : Option RegIdx) : (s.setWait w).cfg = s.cfg := rfl
@[simp] theorem setWait_draws (w : Option RegIdx) : (s.setWait w).draws = s.draws := rfl
@[simp] theorem setWait_getV (w : Option RegIdx) (k : RegIdx) : (s.setWait w).getV k = s.getV k := rfl
@[simp] theorem setWait_memGet (w : Option RegIdx) (n : Nat) : (s.setWait w).memGet n = s.memGet n := rfl
@[simp] theorem setWait_pixel (w : Option RegIdx) (c : Column) (r : Row) : (s.setWait w).pixel c r = s.pixel c r := rfl
@[simp] theorem setWait_keyDown (w : Option RegIdx) (q : KeyIdx) : (s.setWait w).keyDown q = s.keyDown q := rfl

/-! ## setFB -/

@[simp] theorem setFB_v (fb : Framebuffer) : (s.setFB fb).v = s.v := rfl
@[simp] theorem setFB_i (fb : Framebuffer) : (s.setFB fb).i = s.i := rfl
@[simp] theorem setFB_pc (fb : Framebuffer) : (s.setFB fb).pc = s.pc := rfl
@[simp] theorem setFB_sp (fb : Framebuffer) : (s.setFB fb).sp = s.sp := rfl
@[simp] theorem setFB_stack (fb : Framebuffer) : (s.setFB fb).stack = s.stack := rfl
@[simp] theorem setFB_mem (fb : Framebuffer) : (s.setFB fb).mem = s.mem := rfl
@[simp] theorem setFB_fb (fb : Framebuffer) : (s.setFB fb).fb = fb := rfl
@[simp] theorem setFB_key (fb : Framebuffer) : (s.setFB fb).key = s.key := rfl
@[simp] theorem setFB_dt (fb : Framebuffer) : (s.setFB fb).dt = s.dt := rfl
@[simp] theorem setFB_st (fb : Framebuffer) : (s.setFB fb).st = s.st := rfl
@[simp] theorem setFB_wait (fb : Framebuffer) : (s.setFB fb).wait = s.wait := rfl
@[simp] theorem setFB_cfg (fb : Framebuffer) : (s.setFB fb).cfg = s.cfg := rfl
@[simp] theorem setFB_draws (fb : Framebuffer) : (s.setFB fb).draws = s.draws := rfl
@[simp] theorem setFB_getV (fb : Framebuffer) (k : RegIdx) : (s.setFB fb).getV k = s.getV k := rfl
@[simp] theorem setFB_memGet (fb : Framebuffer) (n : Nat) : (s.setFB fb).memGet n = s.memGet n := rfl
@[simp] theorem setFB_keyDown (fb : Framebuffer) (q : KeyIdx) : (s.setFB fb).keyDown q = s.keyDown q := rfl

/-! ## countDraw -/

@[simp] theorem countDraw_v : (s.countDraw).v = s.v := rfl
@[simp] theorem countDraw_i : (s.countDraw).i = s.i := rfl
@[simp] theorem countDraw_pc : (s.countDraw).pc = s.pc := rfl
@[simp] theorem countDraw_sp : (s.countDraw).sp = s.sp := rfl
@[simp] theorem countDraw_stack : (s.countDraw).stack = s.stack := rfl
@[simp] theorem countDraw_mem : (s.countDraw).mem = s.mem := rfl
@[simp] theorem countDraw_fb : (s.countDraw).fb = s.fb := rfl
@[simp] theorem countDraw_key : (s.countDraw).key = s.key := rfl
@[simp] theorem countDraw_dt : (s.countDraw).dt = s.dt := rfl
@[simp] theorem countDraw_st : (s.countDraw).st = s.st := rfl
@[simp] theorem countDraw_wait : (s.countDraw).wait = s.wait := rfl
@[simp] theorem countDraw_cfg : (s.countDraw).cfg = s.cfg := rfl
@[simp] theorem countDraw_draws : (s.countDraw).draws = s.draws + 1 := rfl
@[simp] theorem countDraw_getV (k : RegIdx) : (s.countDraw).getV k = s.getV k := rfl
@[simp] theorem countDraw_memGet (n : Nat) : (s.countDraw).memGet n = s.memGet n := rfl
@[simp] theorem countDraw_pixel (c : Column) (r : Row) : (s.countDraw).pixel c r = s.pixel c r := rfl
@[simp] theorem countDraw_keyDown (q : KeyIdx) : (s.countDraw).keyDown q = s.keyDown q := rfl

/-! ## memSet -/

@[simp] theorem memSet_v (a : Nat) (b : Byte) : (s.memSet a b).v = s.v := rfl
@[simp] theorem memSet_i (a : Nat) (b : Byte) : (s.memSet a b).i = s.i := rfl
@[simp] theorem memSet_pc (a : Nat) (b : Byte) : (s.memSet a b).pc = s.pc := rfl
@[simp] theorem memSet_sp (a : Nat) (b : Byte) : (s.memSet a b).sp = s.sp := rfl
@[simp] theorem memSet_stack (a : Nat) (b : Byte) : (s.memSet a b).stack = s.stack := rfl
@[simp] theorem memSet_mem (a : Nat) (b : Byte) : (s.memSet a b).mem = Memory.set s.cfg.font s.mem a b := rfl
@[simp] theorem memSet_fb (a : Nat) (b : Byte) : (s.memSet a b).fb = s.fb := rfl
@[simp] theorem memSet_key (a : Nat) (b : Byte) : (s.memSet a b).key = s.key := rfl
@[simp] theorem memSet_dt (a : Nat) (b : Byte) : (s.memSet a b).dt = s.dt := rfl
@[simp] theorem memSet_st (a : Nat) (b : Byte) : (s.memSet a b).st = s.st := rfl
@[simp] theorem memSet_wait (a : Nat) (b : Byte) : (s.memSet a b).wait = s.wait := rfl
@[simp] theorem memSet_cfg (a : Nat) (b : Byte) : (s.memSet a b).cfg = s.cfg := rfl
@[simp] theorem memSet_draws (a : Nat) (b : Byte) : (s.memSet a b).draws = s.draws := rfl
@[simp] theorem memSet_getV (a : Nat) (b : Byte) (k : RegIdx) : (s.memSet a b).getV k = s.getV k := rfl
@[simp] theorem memSet_pixel (a : Nat) (b : Byte) (c : Column) (r : Row) : (s.memSet a b).pixel c r = s.pixel c r := rfl
@[simp] theorem memSet_keyDown (a : Nat) (b : Byte) (q : KeyIdx) : (s.memSet a b).keyDown q = s.keyDown q := rfl

/-! ## setKey -/

@[simp] theorem setKey_v (k : KeyIdx) (p : Bool) : (s.setKey k p).v = s.v := rfl
@[simp] theorem setKey_i (k : KeyIdx) (p : Bool) : (s.setKey k p).i = s.i := rfl
@[simp] theorem setKey_pc (k : KeyIdx) (p : Bool) : (s.setKey k p).pc = s.pc := rfl
@[simp] theorem setKey_sp (k : KeyIdx) (p : Bool) : (s.setKey k p).sp = s.sp := rfl
@[simp] theorem setKey_stack (k : KeyIdx) (p : Bool) : (s.setKey k p).stack = s.stack := rfl
@[simp] theorem setKey_mem (k : KeyIdx) (p : Bool) : (s.setKey k p).mem = s.mem := rfl
@[simp] theorem setKey_fb (k : KeyIdx) (p : Bool) : (s.setKey k p).fb = s.fb := rfl
@[simp] theorem setKey_key (k : KeyIdx) (p : Bool) : (s.setKey k p).key = s.key.set k.val p := rfl
@[simp] theorem setKey_dt (k : KeyIdx) (p : Bool) : (s.setKey k p).dt = s.dt := rfl
@[simp] theorem setKey_st (k : KeyIdx) (p : Bool) : (s.setKey k p).st = s.st := rfl
@[simp] theorem setKey_wait (k : KeyIdx) (p : Bool) : (s.setKey k p).wait = s.wait := rfl
@[simp] theorem setKey_cfg (k : KeyIdx) (p : Bool) : (s.setKey k p).cfg = s.cfg := rfl
@[simp] theorem setKey_draws (k : KeyIdx) (p : Bool) : (s.setKey k p).draws = s.draws := rfl
@[simp] theorem setKey_getV (q : KeyIdx) (p : Bool) (k : RegIdx) : (s.setKey q p).getV k = s.getV k := rfl
@[simp] theorem setKey_memGet (k : KeyIdx) (p : Bool) (n : Nat) : (s.setKey k p).memGet n = s.memGet n := rfl
@[simp] theorem setKey_pixel (k : KeyIdx) (p : Bool) (c : Column) (r : Row) : (s.setKey k p).pixel c r = s.pixel c r := rfl

/-! ## advance, setFlag, setResultThenFlag, skipIf -/

@[simp] theorem advance_v : (s.advance).v = s.v := rfl
@[simp] theorem advance_i : (s.advance).i = s.i := rfl
@[simp] theorem advance_pc : (s.advance).pc = s.pc + 2 := rfl
@[simp] theorem advance_sp : (s.advance).sp = s.sp := rfl
@[simp] theorem advance_stack : (s.advance).stack = s.stack := rfl
@[simp] theorem advance_mem : (s.advance).mem = s.mem := rfl
@[simp] theorem advance_fb : (s.advance).fb = s.fb := rfl
@[simp] theorem advance_key : (s.advance).key = s.key := rfl
@[simp] theorem advance_dt : (s.advance).dt = s.dt := rfl
@[simp] theorem advance_st : (s.advance).st = s.st := rfl
@[simp] theorem advance_wait : (s.advance).wait = s.wait := rfl
@[simp] theorem advance_cfg : (s.advance).cfg = s.cfg := rfl
@[simp] theorem advance_draws : (s.advance).draws = s.draws := rfl
@[simp] theorem advance_getV (k : RegIdx) : (s.advance).getV k = s.getV k := rfl
@[simp] theorem advance_memGet (n : Nat) : (s.advance).memGet n = s.memGet n := rfl
@[simp] theorem advance_pixel (c : Column) (r : Row) : (s.advance).pixel c r = s.pixel c r := rfl
@[simp] theorem advance_keyDown (q : KeyIdx) : (s.advance).keyDown q = s.keyDown q := rfl

@[simp] theorem setFlag_i (b : Bool) : (s.setFlag b).i = s.i := rfl
@[simp] theorem setFlag_pc (b : Bool) : (s.setFlag b).pc = s.pc := rfl
@[simp] theorem setFlag_sp (b : Bool) : (s.setFlag b).sp = s.sp := rfl
@[simp] theorem setFlag_stack (b : Bool) : (s.setFlag b).stack = s.stack := rfl
@[simp] theorem setFlag_mem (b : Bool) : (s.setFlag b).mem = s.mem := rfl
@[simp] theorem setFlag_fb (b : Bool) : (s.setFlag b).fb = s.fb := rfl
@[simp] theorem setFlag_key (b : Bool) : (s.setFlag b).key = s.key := rfl
@[simp] theorem setFlag_dt (b : Bool) : (s.setFlag b).dt = s.dt := rfl
@[simp] theorem setFlag_st (b : Bool) : (s.setFlag b).st = s.st := rfl
@[simp] theorem setFlag_wait (b : Bool) : (s.setFlag b).wait = s.wait := rfl
@[simp] theorem setFlag_cfg (b : Bool) : (s.setFlag b).cfg = s.cfg := rfl
@[simp] theorem setFlag_draws (b : Bool) : (s.setFlag b).draws = s.draws := rfl
@[simp] theorem setFlag_memGet (b : Bool) (n : Nat) : (s.setFlag b).memGet n = s.memGet n := rfl
@[simp] theorem setFlag_pixel (b : Bool) (c : Column) (r : Row) : (s.setFlag b).pixel c r = s.pixel c r := rfl
@[simp] theorem setFlag_keyDown (b : Bool) (q : KeyIdx) : (s.setFlag b).keyDown q = s.keyDown q := rfl

@[simp] theorem setResultThenFlag_i (x : RegIdx) (b : Byte) (g : Bool) : (s.setResultThenFlag x b g).i = s.i := rfl
@[simp] theorem setResultThenFlag_pc (x : RegIdx) (b : Byte) (g : Bool) : (s.setResultThenFlag x b g).pc = s.pc := rfl
@[simp] theorem setResultThenFlag_sp (x : RegIdx) (b : Byte) (g : Bool) : (s.setResultThenFlag x b g).sp = s.sp := rfl
@[simp] theorem setResultThenFlag_stack (x : RegIdx) (b : Byte) (g : Bool) : (s.setResultThenFlag x b g).stack = s.stack := rfl
@[simp] theorem setResultThenFlag_mem (x : RegIdx) (b : Byte) (g : Bool) : (s.setResultThenFlag x b g).mem = s.mem := rfl
@[simp] theorem setResultThenFlag_fb (x : RegIdx) (b : Byte) (g : Bool) : (s.setResultThenFlag x b g).fb = s.fb := rfl
@[simp] theorem setResultThenFlag_key (x : RegIdx) (b : Byte) (g : Bool) : (s.setResultThenFlag x b g).key = s.key := rfl
@[simp] theorem setResultThenFlag_dt (x : RegIdx) (b : Byte) (g : Bool) : (s.setResultThenFlag x b g).dt = s.dt := rfl
@[simp] theorem setResultThenFlag_st (x : RegIdx) (b : Byte) (g : Bool) : (s.setResultThenFlag x b g).st = s.st := rfl
@[simp] theorem setResultThenFlag_wait (x : RegIdx) (b : Byte) (g : Bool) : (s.setResultThenFlag x b g).wait = s.wait := rfl
@[simp] theorem setResultThenFlag_cfg (x : RegIdx) (b : Byte) (g : Bool) : (s.setResultThenFlag x b g).cfg = s.cfg := rfl
@[simp] theorem setResultThenFlag_draws (x : RegIdx) (b : Byte) (g : Bool) : (s.setResultThenFlag x b g).draws = s.draws := rfl
@[simp] theorem setResultThenFlag_memGet (x : RegIdx) (b : Byte) (g : Bool) (n : Nat) : (s.setResultThenFlag x b g).memGet n = s.memGet n := rfl
@[simp] theorem setResultThenFlag_pixel (x : RegIdx) (b : Byte) (g : Bool) (c : Column) (r : Row) : (s.setResultThenFlag x b g).pixel c r = s.pixel c r := rfl
@[simp] theorem setResultThenFlag_keyDown (x : RegIdx) (b : Byte) (g : Bool) (q : KeyIdx) : (s.setResultThenFlag x b g).keyDown q = s.keyDown q := rfl

@[simp] theorem skipIf_v (c : Bool) : (s.skipIf c).v = s.v := by cases c <;> rfl
@[simp] theorem skipIf_i (c : Bool) : (s.skipIf c).i = s.i := by cases c <;> rfl
@[simp] theorem skipIf_pc (c : Bool) : (s.skipIf c).pc = if c then s.pc + 2 else s.pc := by cases c <;> rfl
@[simp] theorem skipIf_sp (c : Bool) : (s.skipIf c).sp = s.sp := by cases c <;> rfl
@[simp] theorem skipIf_stack (c : Bool) : (s.skipIf c).stack = s.stack := by cases c <;> rfl
@[simp] theorem skipIf_mem (c : Bool) : (s.skipIf c).mem = s.mem := by cases c <;> rfl
@[simp] theorem skipIf_fb (c : Bool) : (s.skipIf c).fb = s.fb := by cases c <;> rfl
@[simp] theorem skipIf_key (c : Bool) : (s.skipIf c).key = s.key := by cases c <;> rfl
@[simp] theorem skipIf_dt (c : Bool) : (s.skipIf c).dt = s.dt := by cases c <;> rfl
@[simp] theorem skipIf_st (c : Bool) : (s.skipIf c).st = s.st := by cases c <;> rfl
@[simp] theorem skipIf_wait (c : Bool) : (s.skipIf c).wait = s.wait := by cases c <;> rfl
@[simp] theorem skipIf_cfg (c : Bool) : (s.skipIf c).cfg = s.cfg := by cases c <;> rfl
@[simp] theorem skipIf_draws (c : Bool) : (s.skipIf c).draws = s.draws := by cases c <;> rfl
@[simp] theorem skipIf_getV (c : Bool) (k : RegIdx) : (s.skipIf c).getV k = s.getV k := by cases c <;> rfl
@[simp] theorem skipIf_memGet (c : Bool) (n : Nat) : (s.skipIf c).memGet n = s.memGet n := by cases c <;> rfl
@[simp] theorem skipIf_pixel (c : Bool) (d : Column) (r : Row) : (s.skipIf c).pixel d r = s.pixel d r := by cases c <;> rfl
@[simp] theorem skipIf_keyDown (c : Bool) (q : KeyIdx) : (s.skipIf c).keyDown q = s.keyDown q := by cases c <;> rfl

end Sys2Proof.Machine
end

