-- ==== Sys2Proof/Laws/Memory.lean ====
section
/-! SUPPORT. Memory: a read after a write, and that every write keeps the canonical form. -/

namespace Sys2Proof.Machine

/-! ## The list -/

theorem Memory.get_set (font : Font) (m : Memory) (a c : Nat) (b : Byte) (low : Nat)
    (h : Memory.wfFrom font low m = true) :
    Memory.get font (Memory.set font m a b) c = if c = a then b else Memory.get font m c := by
  induction m generalizing low with
  | nil =>
    by_cases hb : b = resetByte font a <;> by_cases hc : c = a <;> simp [Memory.set, Memory.get, hb, hc]
  | cons e rest ih =>
    obtain ⟨k, x⟩ := e
    simp only [Memory.wfFrom, Bool.and_eq_true, decide_eq_true_eq] at h
    obtain ⟨⟨⟨-, -⟩, -⟩, hr⟩ := h
    have below : ∀ (r : Memory) (l c : Nat), Memory.wfFrom font l r = true → c < l →
        Memory.get font r c = resetByte font c := by
      intro r
      induction r with
      | nil => intros; rfl
      | cons e r ihr =>
        intro l c hl hc
        simp only [Memory.wfFrom, Bool.and_eq_true, decide_eq_true_eq] at hl
        have hlt := hl.1.1.1
        rw [Memory.get, if_neg (by omega)]
        exact ihr _ _ hl.2 (by omega)
    simp only [Memory.set]
    split
    · split <;> by_cases hc : c = a
      · subst hc
        rw [if_pos rfl, Memory.get, if_neg (by omega), below rest _ c hr (by omega)]
        simp_all
      · simp [hc]
      · simp [Memory.get, hc]
      · simp [Memory.get, hc]
    · split
      · rename_i hak
        subst hak
        split <;> by_cases hc : c = a
        · subst hc
          rw [if_pos rfl, below rest _ c hr (by omega)]
          simp_all
        · simp [Memory.get, hc]
        · simp [Memory.get, hc]
        · simp [Memory.get, hc]
      · by_cases hck : c = k
        · simp [Memory.get, hck]
          intro hka
          omega
        · simp only [Memory.get, hck, if_false]
          exact ih _ hr

theorem Memory.wfFrom_mono (font : Font) (m : Memory) (l l' : Nat) (hl : l' ≤ l)
    (h : Memory.wfFrom font l m = true) : Memory.wfFrom font l' m = true := by
  cases m with
  | nil => rfl
  | cons e rest =>
    simp only [Memory.wfFrom, Bool.and_eq_true, decide_eq_true_eq] at h ⊢
    exact ⟨⟨⟨by omega, h.1.1.2⟩, h.1.2⟩, h.2⟩

theorem Memory.set_wfFrom (font : Font) (m : Memory) (a : Nat) (b : Byte) (low : Nat) (ha : a < 4096) (hla : low ≤ a)
    (h : Memory.wfFrom font low m = true) : Memory.wfFrom font low (Memory.set font m a b) = true := by
  induction m generalizing low with
  | nil =>
    by_cases hb : b = resetByte font a <;> simp [Memory.set, Memory.wfFrom, hb, ha, hla]
  | cons e rest ih =>
    obtain ⟨k, x⟩ := e
    have h' := h
    simp only [Memory.wfFrom, Bool.and_eq_true, decide_eq_true_eq] at h
    obtain ⟨⟨⟨h1, h2⟩, h3⟩, hr⟩ := h
    simp only [Memory.set]
    split
    · split
      · exact h'
      · simp only [Memory.wfFrom, Bool.and_eq_true, decide_eq_true_eq]
        exact ⟨⟨⟨hla, ha⟩, ‹_›⟩, ⟨⟨by omega, h2⟩, h3⟩, hr⟩
    · split
      · rename_i hak
        subst hak
        split
        · exact Memory.wfFrom_mono font rest (a + 1) low (by omega) hr
        · simp only [Memory.wfFrom, Bool.and_eq_true, decide_eq_true_eq]
          exact ⟨⟨⟨hla, ha⟩, ‹_›⟩, hr⟩
      · simp only [Memory.wfFrom, Bool.and_eq_true, decide_eq_true_eq]
        exact ⟨⟨⟨h1, h2⟩, h3⟩, ih (k + 1) (by omega) hr⟩

/-- A write below 4096 keeps the canonical form. -/
theorem Memory.set_wf (font : Font) (m : Memory) (a : Nat) (b : Byte) (ha : a < 4096) (h : Memory.wf font m = true) :
    Memory.wf font (Memory.set font m a b) = true :=
  Memory.set_wfFrom font m a b 0 ha (Nat.zero_le _) h

/-! ## The state -/

theorem memSet_memWf (s : State) (a : Nat) (b : Byte) (ha : a < 4096)
    (h : Memory.wf s.cfg.font s.mem = true) : Memory.wf (s.memSet a b).cfg.font (s.memSet a b).mem = true :=
  Memory.set_wf _ _ _ _ ha h

/-- A read after a write of one byte (spec/20_memory.md R45, R51). -/
theorem memGet_memSet (s : State) (a c : Nat) (b : Byte) (h : Memory.wf s.cfg.font s.mem = true) :
    (s.memSet a b).memGet c = if c = a then b else s.memGet c :=
  Memory.get_set _ _ _ _ _ _ h

/-- The fields storeBytes leaves alone. -/
theorem storeBytes_fields (bs : List Byte) (s : State) (a : Nat) :
    let t := s.storeBytes a bs
    t = { s with mem := t.mem } := by
  induction bs generalizing s a with
  | nil => rfl
  | cons b bs ih =>
    have := ih (s.memSet a b) (a + 1)
    simp only [State.storeBytes] at this ⊢
    rw [this]
    rfl

theorem storeBytes_memWf (bs : List Byte) (s : State) (a : Nat) (ha : a + bs.length ≤ 4096)
    (h : Memory.wf s.cfg.font s.mem = true) :
    Memory.wf (s.storeBytes a bs).cfg.font (s.storeBytes a bs).mem = true := by
  induction bs generalizing s a with
  | nil => exact h
  | cons b bs ih =>
    simp only [List.length_cons] at ha
    exact ih (s.memSet a b) (a + 1) (by omega) (memSet_memWf s a b (by omega) h)

/-- A read after storing a list of bytes: byte j of the list at a + j, every other address as before. -/
theorem memGet_storeBytes (bs : List Byte) (s : State) (a c : Nat) (ha : a + bs.length ≤ 4096)
    (h : Memory.wf s.cfg.font s.mem = true) :
    (s.storeBytes a bs).memGet c = if a ≤ c ∧ c < a + bs.length then bs.getD (c - a) 0 else s.memGet c := by
  induction bs generalizing s a with
  | nil => simp [State.storeBytes]
  | cons b bs ih =>
    simp only [List.length_cons] at ha
    simp only [State.storeBytes, List.length_cons]
    rw [ih (s.memSet a b) (a + 1) (by omega) (memSet_memWf s a b (by omega) h), memGet_memSet s a c b h]
    by_cases h1 : a + 1 ≤ c ∧ c < a + 1 + bs.length
    · rw [if_pos h1, if_pos (by omega)]
      obtain ⟨d, rfl⟩ : ∃ d, c = a + 1 + d := ⟨c - (a + 1), by omega⟩
      rw [show a + 1 + d - (a + 1) = d by omega, show a + 1 + d - a = d + 1 by omega]
      rfl
    · rw [if_neg h1]
      by_cases h2 : c = a
      · subst h2
        rw [if_pos rfl, if_pos (by omega)]
        simp
      · rw [if_neg h2, if_neg (by omega)]

end Sys2Proof.Machine
end

