-- ==== Sys2Proof/Laws/Ops.lean ====
section
/-! SUPPORT. One lemma per shared operation, saying all it can do. -/

namespace Sys2Proof.Machine

/-! ## Outcomes -/

@[simp] theorem attempt_ok {α : Type} (a : α) (go : α → Host.Outcome State Fault Refusal) : attempt (.ok a) go = go a := rfl

@[simp] theorem attempt_error {α : Type} (f : Fault) (go : α → Host.Outcome State Fault Refusal) :
    attempt (.error f) go = .fault f := rfl

/-- A checked operation followed by a next state answers one exactly when the check passed. -/
theorem attempt_next {α : Type} (r : Except Fault α) (go : α → Host.Outcome State Fault Refusal) (t : State)
    (h : attempt r go = .next t) : ∃ a, r = .ok a ∧ go a = .next t := by
  cases r with
  | ok a => exact ⟨a, rfl, h⟩
  | error f => cases h

/-! ## Registers -/

@[simp] theorem getV_setV (s : State) (x k : RegIdx) (b : Byte) : (s.setV x b).getV k = if k = x then b else s.getV k := by
  simp only [State.getV, State.setV, Vector.getElem_set, Fin.ext_iff, eq_comm]

@[simp] theorem getV_setFlag (s : State) (k : RegIdx) (g : Bool) :
    (s.setFlag g).getV k = if k = vf then flagByte g else s.getV k := getV_setV s vf k _

/-- The flag is written last (spec/42_alu.md R120): it is what V[0xF] holds, also when the result went there. -/
@[simp] theorem getV_setResultThenFlag (s : State) (x k : RegIdx) (b : Byte) (g : Bool) :
    (s.setResultThenFlag x b g).getV k = if k = vf then flagByte g else if k = x then b else s.getV k := by
  rw [State.setResultThenFlag, getV_setFlag, getV_setV]

theorem setRegsFrom_fields (bs : List Byte) (s : State) (j : Nat) :
    s.setRegsFrom j bs = { s with v := (s.setRegsFrom j bs).v } := by
  induction bs generalizing s j with
  | nil => rfl
  | cons b bs ih =>
    rw [State.setRegsFrom, ih]
    rfl

/-- Byte k - j of the list at V[k], the registers outside the list's range as before. -/
theorem getV_setRegsFrom (bs : List Byte) (s : State) (j : Nat) (k : RegIdx) (h : j + bs.length ≤ 16) :
    (s.setRegsFrom j bs).getV k = if j ≤ k.val ∧ k.val < j + bs.length then bs.getD (k.val - j) 0 else s.getV k := by
  induction bs generalizing s j with
  | nil => simp [State.setRegsFrom]
  | cons b bs ih =>
    simp only [List.length_cons] at h ⊢
    rw [State.setRegsFrom, ih _ _ (by omega), getV_setV]
    have hj : (k = Fin.ofNat 16 j) ↔ k.val = j := by
      rw [Fin.ext_iff, Fin.val_ofNat, Nat.mod_eq_of_lt (by omega)]
    by_cases h1 : j + 1 ≤ k.val ∧ k.val < j + 1 + bs.length
    · rw [if_pos h1, if_pos (by omega)]
      obtain ⟨d, hd⟩ : ∃ d, k.val = j + 1 + d := ⟨k.val - (j + 1), by omega⟩
      rw [hd, show j + 1 + d - (j + 1) = d by omega, show j + 1 + d - j = d + 1 by omega]
      rfl
    · rw [if_neg h1]
      by_cases h2 : k.val = j
      · rw [if_pos (hj.2 h2), if_pos (by omega), h2]
        simp
      · rw [if_neg (fun e => h2 (hj.1 e)), if_neg (by omega)]

@[simp] theorem regsThrough_length (s : State) (x : RegIdx) : (s.regsThrough x).length = x.val + 1 := by
  simp [State.regsThrough]

theorem regsThrough_getD (s : State) (x k : RegIdx) (h : k ≤ x) : (s.regsThrough x).getD k.val 0 = s.getV k := by
  have hk : k.val < x.val + 1 := by rw [Fin.le_iff_val_le_val] at h; omega
  simp [State.regsThrough, hk]

/-! ## The call stack -/

/-- All a push can do: with room it stores at SP and moves SP up, without it raises StackOverflow (spec/40_flow.md R103). -/
theorem push_cases (s : State) (a : Word) :
    (∃ t : State, s.push a = .ok t ∧ s.sp.val < 16 ∧ t.sp.val = s.sp.val + 1 ∧
        (∀ j : Fin 16, t.stack[j.val] = if j.val = s.sp.val then a else s.stack[j.val]) ∧
        t = { s with sp := t.sp, stack := t.stack }) ∨
      (s.push a = .error .stackOverflow ∧ s.sp.val = 16) := by
  by_cases h : s.sp.val < 16
  · refine Or.inl ⟨_, by rw [State.push, dif_pos h], h, rfl, fun j => ?_, rfl⟩
    simp only [Vector.getElem_set, eq_comm]
  · exact Or.inr ⟨by rw [State.push, dif_neg h], by omega⟩

/-- All a pop can do: the top entry with SP moved down, or StackUnderflow (spec/40_flow.md R101). -/
theorem pop_cases (s : State) :
    (∃ (a : Word) (t : State), s.pop = .ok (a, t) ∧ 0 < s.sp.val ∧ t.sp.val = s.sp.val - 1 ∧
        (∀ j : Fin 16, j.val = s.sp.val - 1 → a = s.stack[j.val]) ∧ t = { s with sp := t.sp }) ∨
      (s.pop = .error .stackUnderflow ∧ s.sp.val = 0) := by
  by_cases h : 0 < s.sp.val
  · refine Or.inl ⟨_, _, by rw [State.pop, dif_pos h], h, rfl, fun j hj => ?_, rfl⟩
    simp only [hj]
  · exact Or.inr ⟨by rw [State.pop, dif_neg h], by omega⟩

/-! ## Ranges of memory -/

theorem outOfRange_iff (a len : Nat) : outOfRange a len = true ↔ len ≥ 1 ∧ a + len - 1 > 0xFFF := by
  simp [outOfRange]

theorem fetch_eq (s : State) (a : Nat) :
    s.fetch a = if a > 0xFFE then .error .outOfBounds else .ok (s.memGet a ++ s.memGet (a + 1)) := rfl

theorem readRange_eq (s : State) (a n : Nat) :
    s.readRange a n = if n ≥ 1 ∧ a + n - 1 > 0xFFF then .error .outOfBounds else .ok (s.bytesAt a n) := by
  simp [State.readRange, outOfRange]

theorem writeRange_eq (s : State) (a : Nat) (bs : List Byte) :
    s.writeRange a bs = if bs.length ≥ 1 ∧ a + bs.length - 1 > 0xFFF then .error .outOfBounds else .ok (s.storeBytes a bs) := by
  simp [State.writeRange, outOfRange]

@[simp] theorem bytesAt_length (s : State) (a n : Nat) : (s.bytesAt a n).length = n := by simp [State.bytesAt]

theorem bytesAt_getD (s : State) (a n j : Nat) (h : j < n) : (s.bytesAt a n).getD j 0 = s.memGet (a + j) := by
  simp [State.bytesAt, h]

/-! ## Keys -/

/-- The least key down, when one is. -/
theorem lowestKey_some (s : State) (k : KeyIdx) :
    s.lowestKey = some k ↔ s.keyDown k = true ∧ ∀ q, q < k → s.keyDown q = false := by
  have hget : ∀ (i : Nat) (h : i < (List.finRange 16).length), (List.finRange 16)[i] = ⟨i, by simpa using h⟩ := by
    intro i h; simp
  rw [State.lowestKey, List.find?_eq_some_iff_getElem]
  constructor
  · rintro ⟨hk, i, h, hi, hlt⟩
    rw [hget] at hi
    subst hi
    refine ⟨hk, fun q hq => ?_⟩
    have := hlt q.val (by simpa [Fin.lt_def] using hq)
    rw [hget] at this
    simpa using this
  · rintro ⟨hk, hlt⟩
    refine ⟨hk, k.val, by simp, by simp, fun j hj => ?_⟩
    rw [hget]
    simp [hlt ⟨j, by omega⟩ hj]

theorem lowestKey_none (s : State) : s.lowestKey = none ↔ ∀ k, s.keyDown k = false := by
  simp [State.lowestKey, List.find?_eq_none]

end Sys2Proof.Machine
end

