-- ==== Sys2Proof/Laws/Display.lean ====
section
/-! SUPPORT. The sprite plotter: what one flip, one row and all rows do to a pixel and to the hit mark. -/

namespace Sys2Proof.Machine

theorem pixel_setPixel (fb : Framebuffer) (c d : Column) (r q : Row) (on : Bool) :
    Framebuffer.pixel (Framebuffer.setPixel fb c r on) d q = if d = c ∧ q = r then on else Framebuffer.pixel fb d q := by
  unfold Framebuffer.pixel Framebuffer.setPixel
  by_cases hr : q = r
  · subst hr
    by_cases hc : d = c
    · subst hc
      simp
    · have : c.val ≠ d.val := fun h => hc (Fin.ext h.symm)
      simp [hc, this]
  · have : r.val ≠ q.val := fun h => hr (Fin.ext h.symm)
    simp [hr, this]

@[simp] theorem pixel_setFB (s : State) (fb : Framebuffer) (c : Column) (r : Row) :
    (s.setFB fb).pixel c r = Framebuffer.pixel fb c r := rfl

@[simp] theorem pixel_blankScreen (c : Column) (r : Row) : Framebuffer.pixel blankScreen c r = false := by
  simp [Framebuffer.pixel, blankScreen]

/-- From the canvas `k` to the canvas `t` exactly the pixels of `P` were inverted, and a hit was noted exactly when one of
them was on. -/
structure Canvas.Drawn (k t : Canvas) (P : Column → Row → Prop) : Prop where
  inverted : ∀ d q, P d q → Framebuffer.pixel t.fb d q = !Framebuffer.pixel k.fb d q
  kept : ∀ d q, ¬ P d q → Framebuffer.pixel t.fb d q = Framebuffer.pixel k.fb d q
  hit_iff : t.hit = true ↔ k.hit = true ∨ ∃ d q, P d q ∧ Framebuffer.pixel k.fb d q = true

namespace Canvas.Drawn

theorem congr {k t : Canvas} {P Q : Column → Row → Prop} (h : Canvas.Drawn k t P) (e : ∀ d q, P d q ↔ Q d q) :
    Canvas.Drawn k t Q := by
  have : P = Q := funext fun d => funext fun q => propext (e d q)
  exact this ▸ h

theorem refl (k : Canvas) : Canvas.Drawn k k fun _ _ => False :=
  ⟨fun _ _ h => h.elim, fun _ _ _ => rfl, by simp⟩

theorem flip (k : Canvas) (c : Column) (r : Row) : Canvas.Drawn k (k.flip c r) fun d q => d = c ∧ q = r := by
  refine ⟨fun d q h => ?_, fun d q h => ?_, ?_⟩
  · rw [Canvas.flip, pixel_setPixel, if_pos h, h.1, h.2]
  · rw [Canvas.flip, pixel_setPixel, if_neg h]
  · simp [Canvas.flip]

/-- Two drawings that share no pixel make one. -/
theorem trans {k t u : Canvas} {P Q : Column → Row → Prop} (h : Canvas.Drawn k t P) (g : Canvas.Drawn t u Q)
    (disj : ∀ d q, P d q → ¬ Q d q) : Canvas.Drawn k u fun d q => P d q ∨ Q d q := by
  have off : ∀ d q, Q d q → Framebuffer.pixel t.fb d q = Framebuffer.pixel k.fb d q :=
    fun d q hq => h.kept d q fun hp => disj d q hp hq
  refine ⟨fun d q hpq => ?_, fun d q hpq => ?_, ?_⟩
  · rcases hpq with hp | hq
    · rw [g.kept d q (disj d q hp), h.inverted d q hp]
    · rw [g.inverted d q hq, off d q hq]
  · rw [g.kept d q fun hq => hpq (.inr hq), h.kept d q fun hp => hpq (.inl hp)]
  · rw [g.hit_iff, h.hit_iff, or_assoc]
    constructor
    · rintro (h | ⟨d, q, hp, ho⟩ | ⟨d, q, hq, ho⟩)
      · exact .inl h
      · exact .inr ⟨d, q, .inl hp, ho⟩
      · exact .inr ⟨d, q, .inr hq, off d q hq ▸ ho⟩
    · rintro (h | ⟨d, q, hp | hq, ho⟩)
      · exact .inl h
      · exact .inr (.inl ⟨d, q, hp, ho⟩)
      · exact .inr (.inr ⟨d, q, hq, (off d q hq).symm ▸ ho⟩)

end Canvas.Drawn

/-- The pixels under the 1 bits of the first m columns of a sprite row. -/
def rowCovers (x0 row m : Nat) (b : Byte) (d : Column) (q : Row) : Prop :=
  q = wrapRow row ∧ ∃ c, c < m ∧ b.getLsbD (7 - c) = true ∧ wrapColumn (x0 + c) = d

theorem plotRow_prefix (k : Canvas) (x0 row : Nat) (b : Byte) (m : Nat) (hm : m ≤ 8) :
    Canvas.Drawn k ((List.range m).foldl
      (fun acc c => if b.getLsbD (7 - c) then acc.flip (wrapColumn (x0 + c)) (wrapRow row) else acc) k)
      (rowCovers x0 row m b) := by
  induction m with
  | zero => exact (Canvas.Drawn.refl k).congr (by simp [rowCovers])
  | succ m ih =>
    have ih := ih (by omega)
    rw [List.range_succ, List.foldl_append]
    simp only [List.foldl_cons, List.foldl_nil]
    have step : ∀ d q, rowCovers x0 row (m + 1) b d q ↔ rowCovers x0 row m b d q ∨
        (b.getLsbD (7 - m) = true ∧ d = wrapColumn (x0 + m) ∧ q = wrapRow row) := by
      intro d q
      constructor
      · rintro ⟨hq, c, hc, hb, hd⟩
        rcases Nat.lt_succ_iff_lt_or_eq.1 hc with h | h
        · exact .inl ⟨hq, c, h, hb, hd⟩
        · subst h; exact .inr ⟨hb, hd.symm, hq⟩
      · rintro (⟨hq, c, hc, hb, hd⟩ | ⟨hb, hd, hq⟩)
        · exact ⟨hq, c, by omega, hb, hd⟩
        · exact ⟨hq, m, by omega, hb, hd.symm⟩
    split
    · rename_i hb
      refine (ih.trans (Canvas.Drawn.flip _ _ _) ?_).congr fun d q => by rw [step]; simp [hb]
      rintro d q ⟨-, c, hc, -, hd⟩ ⟨hd', -⟩
      have := hd.trans hd'
      simp only [wrapColumn, Fin.ext_iff, Fin.val_ofNat] at this
      omega
    · rename_i hb
      exact ih.congr fun d q => by rw [step]; simp [hb]

/-- One sprite row inverts exactly the pixels under its 1 bits (spec/44_display.md R151, R152). -/
theorem plotRow_drawn (k : Canvas) (x0 row : Nat) (b : Byte) :
    Canvas.Drawn k (k.plotRow x0 row b) (rowCovers x0 row 8 b) :=
  plotRow_prefix k x0 row b 8 (Nat.le_refl 8)

/-- The pixels under the 1 bits of a sprite. -/
def rowsCover (x0 row : Nat) (bs : List Byte) (d : Column) (q : Row) : Prop :=
  ∃ j, j < bs.length ∧ rowCovers x0 (row + j) 8 (bs.getD j 0) d q

/-- A sprite of at most 32 rows visits no pixel twice: it inverts exactly the pixels under its 1 bits, and notes a hit
exactly when one of them was on (spec/44_display.md R151). -/
theorem plotRows_drawn (bs : List Byte) (k : Canvas) (x0 row : Nat) (hlen : bs.length ≤ 32) :
    Canvas.Drawn k (k.plotRows x0 row bs) (rowsCover x0 row bs) := by
  induction bs generalizing k row with
  | nil => exact (Canvas.Drawn.refl k).congr (by simp [rowsCover])
  | cons b bs ih =>
    simp only [List.length_cons] at hlen
    refine ((plotRow_drawn k x0 row b).trans (ih (k.plotRow x0 row b) (row + 1) (by omega)) ?_).congr fun d q => ?_
    · rintro d q ⟨hq, -⟩ ⟨j, hj, hq', -⟩
      have := hq.symm.trans hq'
      simp only [wrapRow, Fin.ext_iff, Fin.val_ofNat] at this
      omega
    · have shift : ∀ j, row + 1 + j = row + (j + 1) := fun j => by omega
      constructor
      · rintro (h | ⟨j, hj, h⟩)
        · exact ⟨0, by simp, h⟩
        · exact ⟨j + 1, by simpa using hj, shift j ▸ h⟩
      · rintro ⟨j, hj, h⟩
        cases j with
        | zero => exact .inl h
        | succ j => exact .inr ⟨j, by simpa using hj, (shift j).symm ▸ h⟩

end Sys2Proof.Machine
end

