-- ==== Sys2Proof/Laws/PerInstr.lean ====
section
/-! SUPPORT. Facts about every instruction as syntax, one lemma per constructor: the word the encoder gives an instruction
matches the mask and pattern of its row of the opcode table (spec/30_encoding.md R70). -/

namespace Sys2Proof.Laws

/-- Format NNN under a class mask (R63). -/
theorem formatNNN_covers (cls : BitVec 4) (nnn : Addr12) :
    formatNNN cls nnn &&& (0xF#4 ++ 0x000#12) = cls ++ 0x000#12 := by
  rw [formatNNN, BitVec.and_append]
  congr 1
  · exact BitVec.and_allOnes
  · exact BitVec.and_zero

/-- Format XKK under a class mask (R63). -/
theorem formatXKK_covers_class (cls : BitVec 4) (x : RegIdx) (kk : Byte) :
    formatXKK cls x kk &&& (0xF#4 ++ 0x000#12) = cls ++ 0x000#12 := formatNNN_covers cls (regBits x ++ kk)

/-- Format X, the low byte fixed (R63). -/
theorem formatXKK_covers (cls : BitVec 4) (x : RegIdx) (kk : Byte) :
    formatXKK cls x kk &&& (0xF#4 ++ (0x0#4 ++ 0xFF#8)) = cls ++ (0x0#4 ++ kk) := by
  rw [formatXKK, BitVec.and_append, BitVec.and_append]
  congr 1
  · exact BitVec.and_allOnes
  congr 1
  · exact BitVec.and_zero
  · exact BitVec.and_allOnes

/-- Format XY, the selector fixed (R63). -/
theorem formatXY_covers (cls : BitVec 4) (x y : RegIdx) (sel : BitVec 4) :
    formatXY cls x y sel &&& (0xF#4 ++ (0x0#4 ++ (0x0#4 ++ 0xF#4))) = cls ++ (0x0#4 ++ (0x0#4 ++ sel)) := by
  rw [formatXY, BitVec.and_append, BitVec.and_append, BitVec.and_append]
  congr 1
  · exact BitVec.and_allOnes
  congr 1
  · exact BitVec.and_zero
  congr 1
  · exact BitVec.and_zero
  · exact BitVec.and_allOnes

/-- Format XYN under a class mask (R63). -/
theorem formatXY_covers_class (cls : BitVec 4) (x y : RegIdx) (sel : BitVec 4) :
    formatXY cls x y sel &&& (0xF#4 ++ 0x000#12) = cls ++ 0x000#12 :=
  formatNNN_covers cls (regBits x ++ (regBits y ++ sel))

/-- The encoder's word matches the instruction's row (R70). -/
def EncodingMatchesRow.Statement (i : Instr) : Prop := encode i &&& i.row.mask = i.row.pattern

namespace EncodingMatchesRow

theorem cls : Statement (.cls) := rfl
theorem ret : Statement (.ret) := rfl
theorem jp (nnn : Addr12) : Statement (.jp nnn) := formatNNN_covers _ _
theorem call (nnn : Addr12) : Statement (.call nnn) := formatNNN_covers _ _
theorem seKk (x : RegIdx) (kk : Byte) : Statement (.seKk x kk) := formatXKK_covers_class _ _ _
theorem sneKk (x : RegIdx) (kk : Byte) : Statement (.sneKk x kk) := formatXKK_covers_class _ _ _
theorem seV (x y : RegIdx) : Statement (.seV x y) := formatXY_covers _ _ _ _
theorem ldKk (x : RegIdx) (kk : Byte) : Statement (.ldKk x kk) := formatXKK_covers_class _ _ _
theorem addKk (x : RegIdx) (kk : Byte) : Statement (.addKk x kk) := formatXKK_covers_class _ _ _
theorem ldV (x y : RegIdx) : Statement (.ldV x y) := formatXY_covers _ _ _ _
theorem orV (x y : RegIdx) : Statement (.orV x y) := formatXY_covers _ _ _ _
theorem andV (x y : RegIdx) : Statement (.andV x y) := formatXY_covers _ _ _ _
theorem xorV (x y : RegIdx) : Statement (.xorV x y) := formatXY_covers _ _ _ _
theorem addV (x y : RegIdx) : Statement (.addV x y) := formatXY_covers _ _ _ _
theorem subV (x y : RegIdx) : Statement (.subV x y) := formatXY_covers _ _ _ _
theorem shr (x y : RegIdx) : Statement (.shr x y) := formatXY_covers _ _ _ _
theorem subnV (x y : RegIdx) : Statement (.subnV x y) := formatXY_covers _ _ _ _
theorem shl (x y : RegIdx) : Statement (.shl x y) := formatXY_covers _ _ _ _
theorem sneV (x y : RegIdx) : Statement (.sneV x y) := formatXY_covers _ _ _ _
theorem ldI (nnn : Addr12) : Statement (.ldI nnn) := formatNNN_covers _ _
theorem jpV0 (nnn : Addr12) : Statement (.jpV0 nnn) := formatNNN_covers _ _
theorem rnd (x : RegIdx) (kk : Byte) : Statement (.rnd x kk) := formatXKK_covers_class _ _ _
theorem drw (x y : RegIdx) (n : Nat) : Statement (.drw x y n) := formatXY_covers_class _ _ _ _
theorem skp (x : RegIdx) : Statement (.skp x) := formatXKK_covers _ _ _
theorem sknp (x : RegIdx) : Statement (.sknp x) := formatXKK_covers _ _ _
theorem ldVxDT (x : RegIdx) : Statement (.ldVxDT x) := formatXKK_covers _ _ _
theorem ldVxK (x : RegIdx) : Statement (.ldVxK x) := formatXKK_covers _ _ _
theorem ldDTVx (x : RegIdx) : Statement (.ldDTVx x) := formatXKK_covers _ _ _
theorem ldSTVx (x : RegIdx) : Statement (.ldSTVx x) := formatXKK_covers _ _ _
theorem addI (x : RegIdx) : Statement (.addI x) := formatXKK_covers _ _ _
theorem ldF (x : RegIdx) : Statement (.ldF x) := formatXKK_covers _ _ _
theorem ldB (x : RegIdx) : Statement (.ldB x) := formatXKK_covers _ _ _
theorem stRegs (x : RegIdx) : Statement (.stRegs x) := formatXKK_covers _ _ _
theorem ldRegs (x : RegIdx) : Statement (.ldRegs x) := formatXKK_covers _ _ _
theorem nop : Statement (.nop) := rfl

end EncodingMatchesRow

end Sys2Proof.Laws
end

