-- ==== Sys2Proof/Tests/Slice0.lean ====
section
/-! SUPPORT. The model's own tests: the well-formedness check, one word per constructor written from the formats of
spec/30_encoding.md R63, single steps with the results spec/95_test_vectors.md gives, and a state that meets the hypotheses of
each statement that has some. -/

open Sys2Proof Sys2Proof.Machine

namespace Sys2Proof.Tests

/-! ## Helpers -/

/-- The answer is a next state with the property. -/
def nextWith (o : Host.Outcome State Fault Refusal) (p : State → Bool) : Bool :=
  match o with
  | .next t => p t
  | _ => false

/-- The answer is this fault. -/
def faultsWith (o : Host.Outcome State Fault Refusal) (f : Fault) : Bool :=
  match o with
  | .fault g => decide (g = f)
  | _ => false

/-- The launch state with some changes, and a word placed at PC (spec/95_test_vectors.md, Conventions). -/
def launch (w : Nat) (pre : State → State) : State := (pre State.reset).withFetchWord 16 w

/-- V[0] and V[1] of a launch state. -/
def regs01 (a b : Byte) (s : State) : State := (s.setV 0 a).setV 1 b

/-- A launch state with SP set. -/
def withSP (n : Fin 17) (s : State) : State := { s with sp := n }

/-! ## Well-formedness -/

theorem test_wellFormed_refuses_sixteen_rows : Instr.wellFormed (.drw 0 0 16) = false := by decide
theorem test_wellFormed_accepts_fifteen_rows : Instr.wellFormed (.drw 15 15 15) = true := by decide

/-! ## Decoding: each word is written out from its format, class nibble first (spec/30_encoding.md R63, R70) -/

theorem test_decode_cls : decodeWord 0b0000_0000_1110_0000 = some .cls := by decide
theorem test_decode_ret : decodeWord 0b0000_0000_1110_1110 = some .ret := by decide
theorem test_decode_jp : decodeWord 0b0001_1010_1011_1100 = some (.jp 0xABC) := by decide
theorem test_decode_call : decodeWord 0b0010_0011_0000_0001 = some (.call 0x301) := by decide
theorem test_decode_seKk : decodeWord 0b0011_0110_0100_0010 = some (.seKk 6 0x42) := by decide
theorem test_decode_sneKk : decodeWord 0b0100_0110_0100_0010 = some (.sneKk 6 0x42) := by decide
theorem test_decode_seV : decodeWord 0b0101_0001_0010_0000 = some (.seV 1 2) := by decide
theorem test_decode_ldKk : decodeWord 0b0110_1010_0011_1100 = some (.ldKk 0xA 0x3C) := by decide
theorem test_decode_addKk : decodeWord 0b0111_1111_0000_0010 = some (.addKk 0xF 0x02) := by decide
theorem test_decode_ldV : decodeWord 0b1000_1010_1011_0000 = some (.ldV 0xA 0xB) := by decide
theorem test_decode_orV : decodeWord 0b1000_1010_1011_0001 = some (.orV 0xA 0xB) := by decide
theorem test_decode_andV : decodeWord 0b1000_1010_1011_0010 = some (.andV 0xA 0xB) := by decide
theorem test_decode_xorV : decodeWord 0b1000_1010_1011_0011 = some (.xorV 0xA 0xB) := by decide
theorem test_decode_addV : decodeWord 0b1000_1010_1011_0100 = some (.addV 0xA 0xB) := by decide
theorem test_decode_subV : decodeWord 0b1000_1010_1011_0101 = some (.subV 0xA 0xB) := by decide
theorem test_decode_shr : decodeWord 0b1000_1010_1011_0110 = some (.shr 0xA 0xB) := by decide
theorem test_decode_subnV : decodeWord 0b1000_1010_1011_0111 = some (.subnV 0xA 0xB) := by decide
theorem test_decode_shl : decodeWord 0b1000_1010_1011_1110 = some (.shl 0xA 0xB) := by decide
theorem test_decode_sneV : decodeWord 0b1001_0001_0010_0000 = some (.sneV 1 2) := by decide
theorem test_decode_ldI : decodeWord 0b1010_0001_0010_0011 = some (.ldI 0x123) := by decide
theorem test_decode_jpV0 : decodeWord 0b1011_0001_0010_0011 = some (.jpV0 0x123) := by decide
theorem test_decode_rnd : decodeWord 0b1100_0010_0000_1111 = some (.rnd 2 0x0F) := by decide
theorem test_decode_drw : decodeWord 0b1101_0001_0010_0101 = some (.drw 1 2 5) := by decide
theorem test_decode_skp : decodeWord 0b1110_0011_1001_1110 = some (.skp 3) := by decide
theorem test_decode_sknp : decodeWord 0b1110_0011_1010_0001 = some (.sknp 3) := by decide
theorem test_decode_ldVxDT : decodeWord 0b1111_0011_0000_0111 = some (.ldVxDT 3) := by decide
theorem test_decode_ldVxK : decodeWord 0b1111_0011_0000_1010 = some (.ldVxK 3) := by decide
theorem test_decode_ldDTVx : decodeWord 0b1111_0011_0001_0101 = some (.ldDTVx 3) := by decide
theorem test_decode_ldSTVx : decodeWord 0b1111_0011_0001_1000 = some (.ldSTVx 3) := by decide
theorem test_decode_addI : decodeWord 0b1111_0011_0001_1110 = some (.addI 3) := by decide
theorem test_decode_ldF : decodeWord 0b1111_0011_0010_1001 = some (.ldF 3) := by decide
theorem test_decode_ldB : decodeWord 0b1111_0011_0011_0011 = some (.ldB 3) := by decide
theorem test_decode_stRegs : decodeWord 0b1111_0011_0101_0101 = some (.stRegs 3) := by decide
theorem test_decode_ldRegs : decodeWord 0b1111_0011_0110_0101 = some (.ldRegs 3) := by decide
theorem test_decode_nop : decodeWord 0b0000_0000_0000_0000 = some .nop := by decide

/-- The illegal words spec/95_test_vectors.md lists under Decode. -/
theorem test_decode_illegal_words :
    (([0x0001, 0x00E1, 0x00FF, 0x0123, 0x0FFF, 0x5001, 0x8008, 0x800F] ++
      [0x9001, 0xE000, 0xE19F, 0xF000, 0xF00B, 0xF075, 0xF085, 0xFFFF] : List Word).all
        fun op => decide (decodeWord op = none)) = true := by decide

/-- Bytes are read high byte first; fewer than two hold no word. -/
theorem test_decode_bytes :
    decode [0x6A, 0x3C, 0x12] = .ok (.ldKk 0xA 0x3C, [0x12]) ∧ decode [0x80, 0x08] = .error (.unknownOpcode 0x8008) ∧
    decode [0x6A] = .error .tooShort := by decide

/-- No two rows of the opcode table share a word (spec/30_encoding.md R69): some bit that both masks fix differs. -/
theorem test_opcode_rows_are_disjoint :
    opcodeTable.Pairwise fun r q => r.pattern &&& (r.mask &&& q.mask) ≠ q.pattern &&& (r.mask &&& q.mask) := by
  decide +kernel

/-! ## Single steps, results from spec/95_test_vectors.md -/

/-- T-FLOW-13. -/
theorem test_nop_moves_pc : nextWith (step (launch 0x0000 id)) (fun t => t.pc = 0x202) = true := by decide
/-- T-FLOW-1. -/
theorem test_jp : nextWith (step (launch 0x1ABC id)) (fun t => t.pc = 0xABC) = true := by decide
/-- T-FLOW-5. -/
theorem test_call_sixteenth : nextWith (step (launch 0x2300 (withSP 15)))
    (fun t => t.sp = 16 && t.stack[15] == 0x202 && t.pc == 0x300) = true := by decide
/-- T-FLOW-6. -/
theorem test_call_seventeenth : faultsWith (step (launch 0x2300 (withSP 16))) .stackOverflow = true := by decide
/-- T-FLOW-8. -/
theorem test_ret : nextWith (step (launch 0x00EE fun s => { s with sp := 1, stack := s.stack.set 0 0xABC }))
    (fun t => t.sp = 0 && t.pc == 0xABC) = true := by decide
/-- T-FLOW-9. -/
theorem test_ret_empty : faultsWith (step (launch 0x00EE id)) .stackUnderflow = true := by decide
/-- T-FLOW-11. -/
theorem test_jpV0_not_reduced : nextWith (step (launch 0xBFFF (regs01 0xFF 0))) (fun t => t.pc = 0x10FE) = true := by decide
/-- T-FLOW-16. -/
theorem test_fetch_above_ffe : faultsWith (step (State.reset.setPC 0xFFF)) .outOfBounds = true := by decide
/-- T-FLOW-15. -/
theorem test_fetch_at_ffe : nextWith (step (launch 0x1234 fun s => s.setPC 0xFFE)) (fun t => t.pc = 0x234) = true := by decide
/-- T-SKIP-1. -/
theorem test_seKk : nextWith (step (launch 0x3042 (regs01 0x42 0))) (fun t => t.pc = 0x204) = true := by decide
/-- T-SKIP-3. -/
theorem test_sneKk : nextWith (step (launch 0x4042 (regs01 0x42 0))) (fun t => t.pc = 0x202) = true := by decide
/-- T-SKIP-6. -/
theorem test_seV : nextWith (step (launch 0x5010 (regs01 7 8))) (fun t => t.pc = 0x202) = true := by decide
/-- T-SKIP-8. -/
theorem test_sneV : nextWith (step (launch 0x9010 (regs01 7 8))) (fun t => t.pc = 0x204) = true := by decide
/-- T-SKIP-12. -/
theorem test_skip_past_the_end : nextWith (step (launch 0x3000 fun s => s.setPC 0xFFE)) (fun t => t.pc = 0x1002) = true := by
  decide
/-- S8. -/
theorem test_ldKk : nextWith (step (launch 0x6A3C id)) (fun t => t.getV 0xA = 0x3C) = true := by decide
/-- T-ALU-32. -/
theorem test_addKk_no_flag : nextWith (step (launch 0x7001 fun s => (s.setV 0 0xFF).setV 15 9))
    (fun t => t.getV 0 = 0 && t.getV 15 == 9) = true := by decide
/-- T-ALU-29. -/
theorem test_ldV : nextWith (step (launch 0x8010 (regs01 1 0x99))) (fun t => t.getV 0 = 0x99) = true := by decide
/-- T-ALU-24. -/
theorem test_orV : nextWith (step (launch 0x8011 fun s => (regs01 0x0F 0xF0 s).setV 15 0x77))
    (fun t => t.getV 0 = 0xFF && t.getV 15 == 0x77) = true := by decide
/-- T-ALU-25. -/
theorem test_andV : nextWith (step (launch 0x8012 (regs01 0x3C 0x0F))) (fun t => t.getV 0 = 0x0C) = true := by decide
/-- T-ALU-26. -/
theorem test_xorV : nextWith (step (launch 0x8013 (regs01 0xFF 0x0F))) (fun t => t.getV 0 = 0xF0) = true := by decide
/-- T-ALU-4. -/
theorem test_addV : nextWith (step (launch 0x8014 (regs01 0xFF 0xFF)))
    (fun t => t.getV 0 = 0xFE && t.getV 15 == 1) = true := by decide
/-- T-ALU-38: x = 0xF keeps the flag. -/
theorem test_addV_flag_last : nextWith (step (launch 0x8F14 fun s => (s.setV 15 0xF0).setV 1 0x20))
    (fun t => t.getV 15 = 1) = true := by decide
/-- T-ALU-7. -/
theorem test_subV : nextWith (step (launch 0x8015 (regs01 0x12 0x34)))
    (fun t => t.getV 0 = 0xDE && t.getV 15 == 0) = true := by decide
/-- T-ALU-37: VF is read before it is written. -/
theorem test_subV_flag_as_source : nextWith (step (launch 0x80F5 fun s => (s.setV 0 5).setV 15 7))
    (fun t => t.getV 0 = 0xFE && t.getV 15 == 0) = true := by decide
/-- T-ALU-12. -/
theorem test_subnV : nextWith (step (launch 0x8017 (regs01 0x12 0x34)))
    (fun t => t.getV 0 = 0x22 && t.getV 15 == 1) = true := by decide
/-- T-ALU-15. -/
theorem test_shr : nextWith (step (launch 0x8016 (regs01 5 0xAA)))
    (fun t => t.getV 0 = 2 && t.getV 15 == 1 && t.getV 1 == 0xAA) = true := by decide
/-- T-ALU-43: x = 0xF keeps the flag. -/
theorem test_shr_flag_last : nextWith (step (launch 0x8F16 fun s => s.setV 15 2)) (fun t => t.getV 15 = 0) = true := by decide
/-- T-ALU-20. -/
theorem test_shl : nextWith (step (launch 0x801E (regs01 0x81 0xAA)))
    (fun t => t.getV 0 = 2 && t.getV 15 == 1) = true := by decide
/-- T-ALU-49: kk = 0 gives 0 whatever is drawn. -/
theorem test_rnd_masked (b : Byte) : b &&& 0x00 = 0 := BitVec.and_zero
/-- T-MEM-1. -/
theorem test_ldI : nextWith (step (launch 0xA123 id)) (fun t => t.i = 0x123) = true := by decide
/-- T-MEM-5. -/
theorem test_addI_wraps : nextWith (step (launch 0xF01E fun s => (s.setI 0xFFF).setV 0 0xFF))
    (fun t => t.i = 0x0FE && t.getV 15 == 0) = true := by decide
/-- T-MEM-6. -/
theorem test_addI_sets_flag : nextWith (step (launch 0xF01E fun s =>
    { (s.setI 0xFFF).setV 0 1 with cfg := ⟨Config.defaultFont, true⟩ })) (fun t => t.i = 0 && t.getV 15 == 1) = true := by
  decide
/-- T-MEM-11. -/
theorem test_ldF : nextWith (step (launch 0xF029 (regs01 0xFF 0))) (fun t => t.i = 0x4FB) = true := by decide
/-- T-MEM-13. -/
theorem test_ldB : nextWith (step (launch 0xF033 fun s => (s.setI 0xFFD).setV 0 0xFF))
    (fun t => t.memGet 0xFFD = 2 && t.memGet 0xFFE == 5 && t.memGet 0xFFF == 5) = true := by decide
/-- T-MEM-13a. -/
theorem test_ldB_beyond : faultsWith (step (launch 0xF033 fun s => s.setI 0xFFE)) .outOfBounds = true := by decide
/-- T-MEM-15. -/
theorem test_stRegs : nextWith (step (launch 0xF055 fun s => (s.setI 0xFFF).setV 0 0x11))
    (fun t => t.memGet 0xFFF = 0x11 && t.i == 0xFFF) = true := by decide
/-- T-MEM-16. -/
theorem test_stRegs_beyond : faultsWith (step (launch 0xF155 fun s => s.setI 0xFFF)) .outOfBounds = true := by decide
/-- T-MEM-20. -/
theorem test_ldRegs : nextWith (step (launch 0xFF65 id)) (fun t => t.v = #v[0xF0, 0x90, 0x90, 0x90, 0xF0, 0x20, 0x60, 0x20,
    0x20, 0x70, 0xF0, 0x10, 0xF0, 0x80, 0xF0, 0xF0]) = true := by decide
/-- T-MEM-23. -/
theorem test_ldRegs_reads_code : nextWith (step (launch 0xF065 fun s => s.setI 0x200)) (fun t => t.getV 0 = 0xF0) = true := by
  decide
/-- T-DRW-13. -/
theorem test_cls : nextWith (step (launch 0x00E0 fun s => s.setFB (Framebuffer.setPixel s.fb 3 4 true)))
    (fun t => t.fb = blankScreen) = true := by decide
/-- T-DRW-4: both axes reduced, the row of the screen wraps. -/
theorem test_drw_wraps : nextWith (step (launch 0xD011 fun s => ((regs01 0xFF 0xFF s).setI 0x300).memSet 0x300 0xC0))
    (fun t => t.fb = Framebuffer.setPixel (Framebuffer.setPixel blankScreen 63 31 true) 0 31 true) = true := by decide
/-- T-DRW-8. -/
theorem test_drw_beyond : faultsWith (step (launch 0xD012 fun s => s.setI 0xFFF)) .outOfBounds = true := by decide
/-- By hand from R151 (assumption log 20): the one-pixel sprite 0x80 over the lit pixel (0, 0) turns it off with VF = 1, and
drawn again turns it on with VF = 0. -/
theorem test_drw_twice_over_a_lit_pixel :
    let lit := ((State.reset.setI 0x300).memSet 0x300 0x80).setFB (Framebuffer.setPixel blankScreen 0 0 true)
    nextWith (exec (.drw 0 0 1) lit) (fun t => !t.pixel 0 0 && t.getV 15 == 1 &&
      nextWith (exec (.drw 0 0 1) t) fun u => u.pixel 0 0 && u.getV 15 == 0) = true := by decide
/-- T-KEY-5: the low four bits select the key. -/
theorem test_skp : nextWith (step (launch 0xE09E fun s => (s.setV 0 0x1A).setKey 0xA true)) (fun t => t.pc = 0x204) = true := by
  decide
/-- T-KEY-4. -/
theorem test_sknp : nextWith (step (launch 0xE0A1 (regs01 5 0))) (fun t => t.pc = 0x204) = true := by decide
/-- T-KEY-8. -/
theorem test_ldVxK : nextWith (step (launch 0xF30A id)) (fun t => t.wait = some 3 && t.pc == 0x202 && t.getV 3 == 0) = true := by
  decide
/-- T-KEY-10. -/
theorem test_poll_lowest : nextWith (step (((State.reset.setWait (some 3)).setKey 9 true).setKey 3 true))
    (fun t => t.getV 3 = 3 && t.wait == none && t.pc == 0x200) = true := by decide
/-- T-TMR-1. -/
theorem test_ldVxDT : nextWith (step (launch 0xF007 fun s => s.setDT 0x2A)) (fun t => t.getV 0 = 0x2A) = true := by decide
/-- T-TMR-3. -/
theorem test_ldDTVx : nextWith (step (launch 0xF015 (regs01 0x3C 0))) (fun t => t.dt = 0x3C) = true := by decide
/-- T-TMR-4. -/
theorem test_ldSTVx : nextWith (step (launch 0xF018 (regs01 2 0))) (fun t => t.st = 2 && t.isSounding) = true := by decide
/-- T-TMR-6. -/
theorem test_ticks : ((State.reset.setDT 2).setST 1).tickTimers = (State.reset.setDT 1).setST 0 ∧
    (State.reset.setDT 0).tickTimers = State.reset := by decide
/-- P6: the fault carries the word. -/
theorem test_unknown_opcode : faultsWith (step (launch 0x8008 id)) (.unknownOpcode 0x8008) = true := by decide

/-! ## Witnesses: each shows a state and operands that meet a statement's hypotheses, a clause at a time -/

theorem test_meets_DecodeOfEncode : Instr.wellFormed (.drw 0 15 15) = true ∧ Instr.wellFormed .nop = true := by decide
theorem test_meets_EncodeOfDecode : decodeWord 0x8AB6 = some (.shr 0xA 0xB) ∧ decodeWord 0xDFFF = some (.drw 15 15 15) := by
  decide
theorem test_meets_StepPollsOrFetches_waiting : (State.reset.setWait (some 15)).wait = some 15 := by decide
theorem test_meets_StepPollsOrFetches_beyond : State.reset.wait = none ∧ (State.reset.setPC 0xFFF).pc.toNat > 0xFFE := by decide
theorem test_meets_StepPollsOrFetches_fetching :
    (launch 0xA123 fun s => s.setPC 0xFFE).wait = none ∧ (launch 0xA123 fun s => s.setPC 0xFFE).pc.toNat ≤ 0xFFE ∧
    (0xA123 : Word).toNat = ((launch 0xA123 fun s => s.setPC 0xFFE).memGet 0xFFE).toNat * 256 +
      ((launch 0xA123 fun s => s.setPC 0xFFE).memGet (0xFFE + 1)).toNat := by decide
theorem test_meets_StepRunsTheDecodedInstruction :
    (launch 0xF155 id).wait = none ∧ (launch 0xF155 id).pc.toNat ≤ 0xFFE ∧
    decode [(launch 0xF155 id).memGet (launch 0xF155 id).pc.toNat, (launch 0xF155 id).memGet ((launch 0xF155 id).pc.toNat + 1)]
      = .ok (.stRegs 1, []) := by decide
theorem test_meets_PlacedWordRunsNext : State.reset.MemWf ∧ decodeTableWord 16 0xD125 = some (.drw 1 2 5) := ⟨rfl, by decide⟩
theorem test_meets_KeyPoll_key_down :
    let s := ((State.reset.setWait (some 0)).setKey 15 true).setKey 9 true
    s.wait = some 0 ∧ s.keyDown 9 = true ∧ ∀ q : KeyIdx, q < 9 → s.keyDown q = false := by decide
theorem test_meets_KeyPoll_none_down :
    (State.reset.setWait (some 15)).wait = some 15 ∧ ∀ k : KeyIdx, (State.reset.setWait (some 15)).keyDown k = false := by decide
theorem test_meets_StepFaults_instruction_beyond :
    (launch 0xF055 fun s => s.setI 0x1000).fetch 0x200 = .ok 0xF055 ∧ decodeWord 0xF055 = some (.stRegs 0) ∧
    Instr.reachesBeyond (launch 0xF055 fun s => s.setI 0x1000) (.stRegs 0) :=
  ⟨by decide, by decide, by show _ > _; decide⟩
theorem test_meets_StepFaults_stack :
    (launch 0x2300 (withSP 16)).sp.val = 16 ∧ (launch 0x2300 (withSP 16)).fetch 0x200 = .ok 0x2300 ∧
    decodeWord 0x2300 = some (.call 0x300) ∧ (launch 0x00EE id).sp.val = 0 ∧ (launch 0x00EE id).fetch 0x200 = .ok 0x00EE ∧
    decodeWord 0x00EE = some .ret := by decide
theorem test_meets_StepFaults_unknown : (launch 0x8008 id).fetch 0x200 = .ok 0x8008 ∧ decodeWord 0x8008 = none := by decide
theorem test_meets_TwentyNineInstructions :
    (rowRepresentatives.filter fun i => i.canFault = false).length = 29 := by decide

/-- The reset state meets the invariant, as Obligations.ResetStateMeetsTheInvariant says of every configuration. -/
theorem test_reset_inv : State.reset.Inv :=
  ⟨rfl, by decide, by decide, fun _ h => absurd h (Nat.not_lt_zero _)⟩
theorem test_meets_EveryStepKeepsTheInvariant : State.reset.Inv ∧ ∃ t, step State.reset = .next t :=
  ⟨test_reset_inv, _, rfl⟩
theorem test_meets_EveryHostOperationKeepsTheInvariant :
    State.reset.Inv ∧ ∃ t r, (HostOp.load [0x12, 0x00]).applyLive State.reset = .next (.live t, r) :=
  ⟨test_reset_inv, _, _, rfl⟩
theorem test_meets_EverySession : ∃ t rs, Session.run [.load [0x00, 0xEE], .fetchAndExecute, .reset, .tickTimers]
    (.live State.reset) = .next (.live t, rs) := ⟨_, _, rfl⟩
theorem test_meets_InstructionsChangeOnlyTheirParts : ∃ t, exec (.drw 0 0 15) State.reset = .next t := ⟨_, rfl⟩
theorem test_meets_RegistersNotNamed : (∃ t, exec (.ldRegs 14) State.reset = .next t) ∧
    Instr.mayWrite false (.ldRegs 14) 15 = false ∧ Instr.mayWrite false (.addI 0) 15 = false := ⟨⟨_, rfl⟩, by decide, by decide⟩
theorem test_meets_SoundTimerIsInvisible : SameButSound State.reset (State.reset.setST 9) := by
  unfold SameButSound; decide
theorem test_meets_DeadStackEntries :
    SameButDeadStack { State.reset with sp := 1 } { State.reset with sp := 1, stack := State.reset.stack.set 1 0xABC } := by
  unfold SameButDeadStack; decide
theorem test_meets_NopOnlyAdvancesPC : (State.reset.setPC 0xFFE).wait = none ∧ (State.reset.setPC 0xFFE).pc.toNat ≤ 0xFFE ∧
    (State.reset.setPC 0xFFE).memGet 0xFFE = 0 ∧ (State.reset.setPC 0xFFE).memGet (0xFFE + 1) = 0 := by decide
theorem test_meets_ReturnPops : State.reset.sp.val = 0 ∧ 0 < (withSP 1 State.reset).sp.val ∧ 0 < (withSP 16 State.reset).sp.val := by
  decide
theorem test_meets_CallPushes : (withSP 16 State.reset).sp.val = 16 ∧ (withSP 15 State.reset).sp.val < 16 := by decide
theorem test_meets_ReturnUndoesCall : (withSP 15 State.reset).sp.val < 16 ∧
    ∃ t, exec (.call 0x300) (withSP 15 State.reset) = .next t ∧ (t.setDT 1).sp = t.sp ∧
      ∀ j : Fin 16, (t.setDT 1).stack[j.val] = t.stack[j.val] := ⟨by decide, _, rfl, rfl, fun _ => rfl⟩
theorem test_meets_flag_results_below_vf : (14 : RegIdx) ≠ vf ∧ (0 : RegIdx) ≠ vf := by decide
theorem test_meets_AddIndex : State.reset.cfg.fx1eSetsVF = false ∧
    ({ State.reset with cfg := ⟨Config.defaultFont, true⟩ } : State).cfg.fx1eSetsVF = true := by decide
theorem test_meets_DecimalStore : (State.reset.setI 0xFFE).i.toNat + 2 > 0xFFF ∧ (State.reset.setI 0xFFD).i.toNat + 2 ≤ 0xFFF ∧
    (State.reset.setI 0xFFD).MemWf := ⟨by decide, by decide, rfl⟩
theorem test_meets_register_transfers : (State.reset.setI 0xFF1).i.toNat + (15 : RegIdx).val > 0xFFF ∧
    (State.reset.setI 0xFF0).i.toNat + (15 : RegIdx).val ≤ 0xFFF ∧ (State.reset.setI 0xFF0).MemWf ∧
    (14 : RegIdx) < 15 := ⟨by decide, by decide, rfl, by decide⟩
theorem test_meets_LoadAfterStore : ∃ t, exec (.stRegs 15) (State.reset.setI 0xFF0) = .next t ∧ (t.setV 3 9).i = t.i ∧
    ∀ a, (t.setV 3 9).memGet a = t.memGet a :=
  ⟨(State.reset.setI 0xFF0).storeBytes 0xFF0 ((State.reset.setI 0xFF0).regsThrough 15), rfl, setV_i _ _ _,
    fun _ => setV_memGet _ _ _ _⟩
theorem test_meets_StoredCode :
    let s := State.reset.setI 0x200
    s.MemWf ∧ 1 ≤ (1 : RegIdx).val ∧ s.wait = none ∧ s.i = s.pc ∧ s.i.toNat + (1 : RegIdx).val ≤ 0xFFF :=
  ⟨rfl, by decide, rfl, rfl, by decide⟩
theorem test_meets_Draw_beyond : (15 : Nat) ≤ 15 ∧ (15 ≥ 1 ∧ (State.reset.setI 0xFF2).i.toNat + 15 - 1 > 0xFFF) := by decide
theorem test_meets_Draw_inside : ¬ (15 ≥ 1 ∧ (State.reset.setI 0xFF1).i.toNat + 15 - 1 > 0xFFF) ∧
    ¬ (0 ≥ 1 ∧ (State.reset.setI 0xFFF).i.toNat + 0 - 1 > 0xFFF) := by decide
/-- The glyph at 0x000 has its first pixel on: the corner is covered, and its column 4 is not. -/
theorem test_meets_Draw_pixels : State.reset.spriteCovers 0 0 1 0 0 ∧ ¬ State.reset.spriteCovers 0 0 1 4 0 := by
  refine ⟨⟨0, 0, by decide, by decide, by decide, by decide, by decide⟩, ?_⟩
  rintro ⟨j, k, hj, hk, hb, hc, -⟩
  have hx : (State.reset.getV 0).toNat = 0 := by decide
  have hj : j = 0 := by omega
  have hk : k = 4 := by rw [hx] at hc; have : (4 : Column).val = 4 := rfl; omega
  subst hj hk
  exact absurd hb (by decide)
/-- A covered pixel that is on, and a screen with none on. -/
theorem test_meets_Draw_collision : (∃ c r, State.reset.spriteCovers 0 0 1 c r ∧
    ((State.reset.setFB (Framebuffer.setPixel blankScreen 0 0 true)).pixel c r) = true) ∧
    ¬ ∃ c r, State.reset.spriteCovers 0 0 1 c r ∧ State.reset.pixel c r = true :=
  ⟨⟨0, 0, test_meets_Draw_pixels.1, by decide⟩, by
    rintro ⟨c, r, -, h⟩
    exact absurd h (by simp [State.pixel, State.reset, State.powerOn])⟩
theorem test_meets_DrawingTwice : (1 : RegIdx) ≠ vf ∧ (14 : RegIdx) ≠ vf ∧ ∀ c r, State.reset.pixel c r = false :=
  ⟨by decide, by decide, fun _ _ => pixel_blankScreen _ _⟩
theorem test_meets_KeySkips : (10 : KeyIdx).val = ((State.reset.setV 0 0xFA).getV 0).toNat % 16 := by decide
theorem test_meets_Load : (List.replicate 3585 (0 : Byte)).length > 3584 ∧ (List.replicate 3584 (0 : Byte)).length ≤ 3584 ∧
    State.reset.MemWf := ⟨by rw [List.length_replicate]; decide, by rw [List.length_replicate], rfl⟩
theorem test_meets_Boot : ([0x12, 0x00] : List Byte).length ≤ 3584 ∧ 2 ≤ ([0x12, 0x00] : List Byte).length := by decide
theorem test_meets_ByteReadsBack : (0x1000 : Nat) > 0xFFF ∧ (0xFFF : Nat) ≤ 0xFFF ∧ State.reset.MemWf := ⟨by decide, by decide, rfl⟩
theorem test_meets_HostViews : (State.reset.setST 1).st.toNat = 1 := by decide
theorem test_meets_OnlyReset : step (launch 0x00EE id) = .fault .stackUnderflow ∧ HostOp.fetchAndExecute ≠ .reset :=
  ⟨rfl, by decide⟩
theorem test_meets_EndOfRun : (launch 0x1200 id).EndOfRun := ⟨rfl, 0x200, by decide, by decide⟩

end Sys2Proof.Tests
end

section
/-! PROOF. The state: the invariant of spec/10_state.md R28 from reset on, the frame of the general registers (R12, R13), and
that ST and the dead stack entries influence nothing of the program (R19, R21). -/

namespace Sys2Proof.Machine

/-! ## A property of every next state -/

/-- Every next state the outcome holds has the property; a fault or a refusal holds none. -/
def NextMeets (P : State → Prop) : Host.Outcome State Fault Refusal → Prop
  | .next t => P t
  | .fault _ => True
  | .refused _ => True

theorem NextMeets.of_next {P : State → Prop} {o : Host.Outcome State Fault Refusal} {t : State} (h : NextMeets P o)
    (e : o = .next t) : P t := by
  subst e
  exact h

theorem nextMeets_attempt {α : Type} {P : State → Prop} {r : Except Fault α}
    {go : α → Host.Outcome State Fault Refusal} (h : ∀ a, r = .ok a → NextMeets P (go a)) :
    NextMeets P (attempt r go) := by
  cases r with
  | ok a => exact h a rfl
  | error f => trivial

/-! ## The values written to PC and I (spec/10_state.md R16, R17) -/

theorem extendAddr_le (nnn : Addr12) : (extendAddr nnn).toNat ≤ 0xFFF := by
  have := nnn.isLt
  simp only [extendAddr, BitVec.toNat_setWidth]
  omega

theorem offsetTarget_le (nnn : Addr12) (b : Byte) : (offsetTarget nnn b).toNat ≤ 0x10FE := by
  have := nnn.isLt
  have := b.isLt
  simp only [offsetTarget, BitVec.toNat_ofNat]
  omega

theorem indexSum_le (i : Word) (b : Byte) : (indexSum i b).toNat ≤ 0xFFF := by
  simp only [indexSum, BitVec.toNat_ofNat]
  omega

theorem glyphAddr_le (b : Byte) : (glyphAddr b).toNat ≤ 0xFFF := by
  have := b.isLt
  rw [glyphAddr, BitVec.toNat_ofNat]
  exact Nat.le_trans (Nat.mod_le _ _) (by omega)

/-- The advance by 2 may wrap, which only makes PC less. -/
theorem advance_pc_le (s : State) : s.advance.pc.toNat ≤ s.pc.toNat + 2 := by
  rw [advance_pc, BitVec.toNat_add]
  exact Nat.mod_le _ _

/-! ## The invariant, one rule per operation of the state (spec/10_state.md R28) -/

theorem powerOn_inv (cfg : Config) (draws : Nat) : (State.powerOn cfg draws).Inv :=
  ⟨rfl, by simp [State.powerOn], by simp [State.powerOn], fun _ h => absurd h (Nat.not_lt_zero _)⟩

namespace State.Inv

variable {s t : State}

/-- The invariant speaks of the configuration, memory, I, PC, SP and STACK alone. -/
theorem frame (h : s.Inv) (hcfg : t.cfg = s.cfg := by rfl) (hmem : t.mem = s.mem := by rfl) (hi : t.i = s.i := by rfl)
    (hpc : t.pc = s.pc := by rfl) (hsp : t.sp = s.sp := by rfl) (hstack : t.stack = s.stack := by rfl) : t.Inv := by
  obtain ⟨wf, i_le, pc_le, live⟩ := h
  refine ⟨?_, hi ▸ i_le, hpc ▸ pc_le, fun j hj => ?_⟩
  · rw [MemWf, hcfg, hmem]
    exact wf
  · simp only [hstack]
    exact live j (hsp ▸ hj)

theorem setI (h : s.Inv) {a : Word} (ha : a.toNat ≤ 0xFFF) : (s.setI a).Inv :=
  ⟨h.mem_wf, ha, h.pc_le, h.live_le⟩

theorem setPC (h : s.Inv) {a : Word} (ha : a.toNat ≤ 0x10FE) : (s.setPC a).Inv :=
  ⟨h.mem_wf, h.i_le, ha, h.live_le⟩

theorem advance (h : s.Inv) (hpc : s.pc.toNat ≤ 0x1000) : s.advance.Inv :=
  h.setPC (Nat.le_trans (advance_pc_le s) (by omega))

theorem skipIf (h : s.Inv) (hpc : s.pc.toNat ≤ 0x1000) (c : Bool) : (s.skipIf c).Inv := by
  cases c with
  | false => exact h
  | true => exact h.advance hpc

/-- The register file is no part of the invariant. -/
theorem setRegsFrom (h : s.Inv) (j : Nat) (bs : List Byte) : (s.setRegsFrom j bs).Inv := by
  rw [setRegsFrom_fields]
  exact h.frame

theorem pollKeys (h : s.Inv) (r : RegIdx) : (s.pollKeys r).Inv := by
  unfold State.pollKeys
  split
  · exact h.frame
  · exact h

theorem storeBytes (h : s.Inv) {a : Nat} {bs : List Byte} (ha : a + bs.length ≤ 4096) : (s.storeBytes a bs).Inv := by
  obtain ⟨m, hm⟩ : ∃ m, s.storeBytes a bs = { s with mem := m } := ⟨_, storeBytes_fields bs s a⟩
  have wf := storeBytes_memWf bs s a ha h.mem_wf
  rw [hm] at wf ⊢
  exact ⟨wf, h.i_le, h.pc_le, h.live_le⟩

/-- The check of the whole range is what keeps a store inside memory (spec/20_memory.md R47). -/
theorem writeRange (h : s.Inv) {a : Nat} (ha : a ≤ 0xFFF) {bs : List Byte} (hw : s.writeRange a bs = .ok t) : t.Inv := by
  rw [writeRange_eq] at hw
  split at hw
  · cases hw
  · cases hw
    exact h.storeBytes (by omega)

/-- A pushed address becomes a live entry; the others were live before. -/
theorem push (h : s.Inv) {a : Word} (ha : a.toNat ≤ 0x1000) (hp : s.push a = .ok t) : t.Inv := by
  obtain ⟨u, hu, -, hsp, hstack, hfields⟩ | ⟨hf, -⟩ := push_cases s a
  · obtain rfl : u = t := by simpa [hu] using hp
    have live : ∀ j : Fin 16, j.val < u.sp.val → u.stack[j.val].toNat ≤ 0x1000 := fun j hj => by
      rw [hstack j]
      split
      · exact ha
      · exact h.live_le j (by omega)
    rw [hfields]
    exact ⟨h.mem_wf, h.i_le, h.pc_le, live⟩
  · simp [hf] at hp

/-- A popped address was a live entry, so it is a legal PC. -/
theorem pop (h : s.Inv) {r : Word × State} (hp : s.pop = .ok r) : r.2.Inv ∧ r.1.toNat ≤ 0x1000 := by
  obtain ⟨a, u, hu, hpos, hsp, htop, hfields⟩ | ⟨hf, -⟩ := pop_cases s
  · obtain rfl : (a, u) = r := by simpa [hu] using hp
    have live : ∀ j : Fin 16, j.val < u.sp.val → s.stack[j.val].toNat ≤ 0x1000 := fun j hj => h.live_le j (by omega)
    constructor
    · show u.Inv
      rw [hfields]
      exact ⟨h.mem_wf, h.i_le, h.pc_le, live⟩
    · show a.toNat ≤ 0x1000
      rw [htop ⟨s.sp.val - 1, by omega⟩ rfl]
      exact h.live_le ⟨s.sp.val - 1, by omega⟩ (Nat.sub_one_lt_of_lt hpos)
  · simp [hf] at hp

/-! ### Every instruction, every step -/

/-- An instruction keeps the invariant where the fetch has left PC at most 0x1000: the bound on what a call pushes. -/
theorem exec (h : s.Inv) (hpc : s.pc.toNat ≤ 0x1000) : ∀ i : Instr, NextMeets State.Inv (exec i s)
  | .nop => h
  | .cls | .ldKk _ _ | .addKk _ _ | .ldV _ _ | .orV _ _ | .andV _ _ | .xorV _ _ => h.frame
  | .addV _ _ | .subV _ _ | .shr _ _ | .subnV _ _ | .shl _ _ | .rnd _ _ => h.frame
  | .ldVxDT _ | .ldVxK _ | .ldDTVx _ | .ldSTVx _ => h.frame
  | .drw _ _ _ => nextMeets_attempt fun _ _ => h.frame
  | .ret => nextMeets_attempt fun _ hp => (h.pop hp).1.setPC (Nat.le_trans (h.pop hp).2 (by decide))
  | .jp nnn => h.setPC (Nat.le_trans (extendAddr_le nnn) (by decide))
  | .jpV0 nnn => h.setPC (offsetTarget_le nnn _)
  | .call nnn => nextMeets_attempt fun _ hp => (h.push hpc hp).setPC (Nat.le_trans (extendAddr_le nnn) (by decide))
  | .seKk _ _ | .sneKk _ _ | .seV _ _ | .sneV _ _ | .skp _ | .sknp _ => h.skipIf hpc _
  | .ldI nnn => h.setI (extendAddr_le nnn)
  | .ldF _ => h.setI (glyphAddr_le _)
  | .addI x => by
    have hI := h.setI (indexSum_le s.i (s.getV x))
    show State.Inv (if _ then _ else _)
    split
    · exact hI.frame
    · exact hI
  | .ldB _ | .stRegs _ => nextMeets_attempt fun _ hw => h.writeRange h.i_le hw
  | .ldRegs _ => nextMeets_attempt fun bs _ => h.setRegsFrom 0 bs

theorem execute (h : s.Inv) (hpc : s.pc.toNat ≤ 0x1000) (op : Word) : NextMeets State.Inv (execute op s) := by
  unfold Machine.execute
  split
  · exact h.exec hpc _
  · trivial

/-- A fetch that completes bounds PC by 0xFFE, so the advanced PC is at most 0x1000. -/
theorem fetchAndRun (h : s.Inv) : NextMeets State.Inv (fetchAndRun s) :=
  nextMeets_attempt fun op hf => by
    rw [fetch_eq] at hf
    split at hf
    · cases hf
    · have hpc : s.advance.pc.toNat ≤ 0x1000 := Nat.le_trans (advance_pc_le s) (by omega)
      exact (h.advance (by omega)).execute hpc op

theorem step (h : s.Inv) : NextMeets State.Inv (step s) := by
  unfold Machine.step
  split
  · exact h.pollKeys _
  · exact h.fetchAndRun

/-! ### The host's operations (spec/60_exceptions.md R226) -/

/-- An image that is not refused ends at 0xFFF (spec/70_reset_and_hazards.md R243). -/
theorem hostLoad (h : s.Inv) {rom : List Byte} (hl : s.hostLoad rom = .ok t) : t.Inv := by
  unfold State.hostLoad at hl
  split at hl
  · cases hl
  · cases hl
    exact h.storeBytes (by omega)

end State.Inv

/-- A session meets the invariant when its machine, if it has one, does. -/
def Session.Inv : Session → Prop
  | .live s => s.Inv
  | .faulted _ _ => True

theorem answered_inv {s : State} {r q : Reply} {y : Session} (h : s.Inv) (e : answered s r = .next (y, q)) : y.Inv := by
  cases e
  exact h

theorem applyLive_inv {op : HostOp} {s : State} {y : Session} {r : Reply} (h : s.Inv)
    (e : op.applyLive s = .next (y, r)) : y.Inv := by
  cases op with
  | reset => exact answered_inv (powerOn_inv s.cfg s.draws) e
  | load rom =>
    simp only [HostOp.applyLive] at e
    split at e
    next t hl => exact answered_inv (h.hostLoad hl) e
    next => exact answered_inv h e
  | fetchAndExecute =>
    simp only [HostOp.applyLive] at e
    split at e
    next t hs => exact answered_inv (h.step.of_next hs) e
    next => cases e; trivial
    next => cases e
  | tickTimers => exact answered_inv (s := s.tickTimers) h.frame e
  | setKey k pressed => exact answered_inv (s := s.setKey k pressed) h.frame e
  | framebuffer => exact answered_inv h e
  | isSounding => exact answered_inv h e

theorem apply_inv {op : HostOp} {x y : Session} {r : Reply} (h : x.Inv) (e : x.apply op = .next (y, r)) : y.Inv := by
  cases x with
  | live s => exact applyLive_inv h e
  | faulted cfg draws =>
    cases op with
    | reset => exact answered_inv (powerOn_inv cfg draws) e
    | load | fetchAndExecute | tickTimers | setKey | framebuffer | isSounding => cases e

theorem run_inv {ops : List HostOp} {x y : Session} {rs : List Reply} (h : x.Inv)
    (e : Session.run ops x = .next (y, rs)) : y.Inv := by
  induction ops generalizing x rs with
  | nil =>
    cases e
    exact h
  | cons op ops ih =>
    simp only [Session.run] at e
    split at e
    next z r hz =>
      split at e
      next w qs hw =>
        cases e
        exact ih (apply_inv h hz) hw
      next => cases e
      next => cases e
    next => cases e
    next => cases e

/-! ## The frame of the general registers (spec/10_state.md R12, R13) -/

theorem getV_setV_of_beq_false (s : State) {x k : RegIdx} (b : Byte) (h : (k == x) = false) :
    (s.setV x b).getV k = s.getV k := by
  rw [getV_setV, if_neg (ne_of_beq_false h)]

theorem getV_setResultThenFlag_of_or_false (s : State) {x k : RegIdx} (b : Byte) (g : Bool)
    (h : (k == x || k == vf) = false) : (s.setResultThenFlag x b g).getV k = s.getV k := by
  obtain ⟨hx, hf⟩ := Bool.or_eq_false_iff.1 h
  rw [getV_setResultThenFlag, if_neg (ne_of_beq_false hf), if_neg (ne_of_beq_false hx)]

theorem getV_storeBytes (s : State) (a : Nat) (bs : List Byte) (k : RegIdx) :
    (s.storeBytes a bs).getV k = s.getV k := by
  rw [storeBytes_fields]
  rfl

theorem getV_of_writeRange {s t : State} {a : Nat} {bs : List Byte} (h : s.writeRange a bs = .ok t) (k : RegIdx) :
    t.getV k = s.getV k := by
  rw [writeRange_eq] at h
  split at h
  · cases h
  · cases h
    exact getV_storeBytes s a bs k

theorem getV_of_push {s t : State} {a : Word} (h : s.push a = .ok t) (k : RegIdx) : t.getV k = s.getV k := by
  obtain ⟨u, hu, -, -, -, hfields⟩ | ⟨hf, -⟩ := push_cases s a
  · obtain rfl : u = t := by simpa [hu] using h
    rw [hfields]
    rfl
  · simp [hf] at h

theorem getV_of_pop {s : State} {r : Word × State} (h : s.pop = .ok r) (k : RegIdx) : r.2.getV k = s.getV k := by
  obtain ⟨a, u, hu, -, -, -, hfields⟩ | ⟨hf, -⟩ := pop_cases s
  · obtain rfl : (a, u) = r := by simpa [hu] using h
    show u.getV k = _
    rw [hfields]
    rfl
  · simp [hf] at h

/-- Fx65 reads x + 1 bytes, so no register above V[x] is reached (spec/43_index_memory.md R145). -/
theorem getV_setRegsFrom_of_readRange {s : State} {a : Nat} {x k : RegIdx} {bs : List Byte}
    (h : s.readRange a (x.val + 1) = .ok bs) (hk : decide (k ≤ x) = false) : (s.setRegsFrom 0 bs).getV k = s.getV k := by
  have hx : ¬ k.val ≤ x.val := of_decide_eq_false hk
  have hlen : bs.length = x.val + 1 := by
    rw [readRange_eq] at h
    split at h
    · cases h
    · cases h
      exact bytesAt_length s a _
  rw [getV_setRegsFrom bs s 0 k (by omega), if_neg (by omega)]

/-- The access table of spec/10_state.md R12, instruction by instruction. -/
theorem exec_keeps_unwritten (s : State) (k : RegIdx) : ∀ i : Instr, i.mayWrite s.cfg.fx1eSetsVF k = false →
    NextMeets (fun t => t.getV k = s.getV k) (exec i s)
  | .nop, _ | .cls, _ | .jp _, _ | .jpV0 _, _ | .ldI _, _ | .ldF _, _ => rfl
  | .ldVxK _, _ | .ldDTVx _, _ | .ldSTVx _, _ => rfl
  | .seKk _ _, _ | .sneKk _ _, _ | .seV _ _, _ | .sneV _ _, _ | .skp _, _ | .sknp _, _ => skipIf_getV s _ k
  | .ldKk _ _, h | .addKk _ _, h | .ldV _ _, h | .orV _ _, h | .andV _ _, h | .xorV _ _, h =>
    getV_setV_of_beq_false s _ h
  | .ldVxDT _, h | .rnd _ _, h => getV_setV_of_beq_false s _ h
  | .addV _ _, h | .subV _ _, h | .shr _ _, h | .subnV _ _, h | .shl _ _, h =>
    getV_setResultThenFlag_of_or_false s _ _ h
  | .ret, _ => nextMeets_attempt fun _ hp => getV_of_pop hp k
  | .call _, _ => nextMeets_attempt fun _ hp => getV_of_push hp k
  | .ldB _, _ | .stRegs _, _ => nextMeets_attempt fun _ hw => getV_of_writeRange hw k
  | .ldRegs _, h => nextMeets_attempt fun _ hr => getV_setRegsFrom_of_readRange hr h
  | .drw _ _ _, h => nextMeets_attempt fun _ _ => getV_setV_of_beq_false (s.setFB _) _ h
  | .addI _, h => by
    show State.getV (if _ then _ else _) k = s.getV k
    split
    next setsVF =>
      simp only [Instr.mayWrite, setsVF, Bool.true_and] at h
      exact getV_setV_of_beq_false (s.setI _) _ h
    next => rfl

/-! ## What the program cannot see: ST and the dead stack entries (spec/10_state.md R19, R21)

Two runs are compared by writing the parts they may differ in, the call stack and ST, over one state. An instruction that does
not touch these parts commutes with the overwriting: it neither reads nor changes them. -/

/-- The call stack and ST. -/
structure StackSound where
  sp : Fin 17
  stack : Vector Word 16
  st : Byte

def State.stackSound (s : State) : StackSound := ⟨s.sp, s.stack, s.st⟩

def State.setStackSound (s : State) (g : StackSound) : State := { s with sp := g.sp, stack := g.stack, st := g.st }

@[simp] theorem stackSound_setStackSound (s : State) (g : StackSound) : (s.setStackSound g).stackSound = g := rfl

/-- The outcome with `f` applied to its next state. -/
def mapNext (f : State → State) : Host.Outcome State Fault Refusal → Host.Outcome State Fault Refusal
  | .next s => .next (f s)
  | .fault e => .fault e
  | .refused r => .refused r

theorem mapNext_attempt {α : Type} (f : State → State) (r : Except Fault α)
    (go : α → Host.Outcome State Fault Refusal) : mapNext f (attempt r go) = attempt r fun a => mapNext f (go a) := by
  cases r <;> rfl

section Overwrite

variable (s : State) (g : StackSound)

theorem skipIf_setStackSound (c : Bool) : (s.setStackSound g).skipIf c = (s.skipIf c).setStackSound g := by
  cases c <;> rfl

theorem storeBytes_setStackSound (a : Nat) (bs : List Byte) :
    (s.setStackSound g).storeBytes a bs = (s.storeBytes a bs).setStackSound g := by
  induction bs generalizing s a with
  | nil => rfl
  | cons b bs ih => exact ih (s.memSet a b) (a + 1)

theorem setRegsFrom_setStackSound (j : Nat) (bs : List Byte) :
    (s.setStackSound g).setRegsFrom j bs = (s.setRegsFrom j bs).setStackSound g := by
  induction bs generalizing s j with
  | nil => rfl
  | cons b bs ih => exact ih (s.setV (Fin.ofNat 16 j) b) (j + 1)

theorem pollKeys_setStackSound (r : RegIdx) : (s.setStackSound g).pollKeys r = (s.pollKeys r).setStackSound g := by
  have same : (s.setStackSound g).lowestKey = s.lowestKey := rfl
  rw [State.pollKeys, State.pollKeys, same]
  cases s.lowestKey <;> rfl

theorem pollStep_setStackSound (r : RegIdx) :
    pollStep r (s.setStackSound g) = mapNext (·.setStackSound g) (pollStep r s) :=
  congrArg Host.Outcome.next (pollKeys_setStackSound s g r)

theorem writeRange_setStackSound (a : Nat) (bs : List Byte) :
    attempt ((s.setStackSound g).writeRange a bs) (fun t => .next t) =
      mapNext (·.setStackSound g) (attempt (s.writeRange a bs) fun t => .next t) := by
  rw [writeRange_eq, writeRange_eq]
  split
  · rfl
  · rw [storeBytes_setStackSound]
    rfl

/-- An instruction whose row names neither the stack nor ST commutes with overwriting them. -/
theorem exec_setStackSound : ∀ i : Instr, Part.stack ∉ i.mayChange → Part.soundTimer ∉ i.mayChange →
    exec i (s.setStackSound g) = mapNext (·.setStackSound g) (exec i s)
  | .ret, h, _ | .call _, h, _ => absurd (List.mem_cons_self ..) h
  | .ldSTVx _, _, h => absurd (List.mem_cons_self ..) h
  | .nop, _, _ | .cls, _, _ | .jp _, _, _ | .jpV0 _, _, _ | .ldI _, _, _ | .ldF _, _, _ => rfl
  | .ldKk _ _, _, _ | .addKk _ _, _, _ | .ldV _ _, _, _ | .orV _ _, _, _ | .andV _ _, _, _ | .xorV _ _, _, _ => rfl
  | .addV _ _, _, _ | .subV _ _, _, _ | .shr _ _, _, _ | .subnV _ _, _, _ | .shl _ _, _, _ | .rnd _ _, _, _ => rfl
  | .ldVxDT _, _, _ | .ldVxK _, _, _ | .ldDTVx _, _, _ => rfl
  | .seKk _ _, _, _ | .sneKk _ _, _, _ | .seV _ _, _, _ | .sneV _ _, _, _ | .skp _, _, _ | .sknp _, _, _ =>
    congrArg Host.Outcome.next (skipIf_setStackSound s g _)
  | .addI x, _, _ => by
    show Host.Outcome.next (if s.cfg.fx1eSetsVF then _ else _) = mapNext _ (.next (if s.cfg.fx1eSetsVF then _ else _))
    split <;> rfl
  | .ldB _, _, _ | .stRegs _, _, _ => writeRange_setStackSound s g _ _
  | .drw _ _ _, _, _ => by
    refine Eq.trans ?_ (mapNext_attempt ..).symm
    rfl
  | .ldRegs _, _, _ => by
    refine Eq.trans ?_ (mapNext_attempt ..).symm
    exact congrArg (attempt _) (funext fun bs => congrArg Host.Outcome.next (setRegsFrom_setStackSound s g 0 bs))

end Overwrite

/-- The two states are the same but for the call stack and ST, which `P` relates. -/
def SameBut (P : StackSound → StackSound → Prop) (s t : State) : Prop :=
  P s.stackSound t.stackSound ∧ t = s.setStackSound t.stackSound

section Related

variable {P : StackSound → StackSound → Prop} {s t : State} {g : StackSound}

theorem sameBut_setStackSound (h : P s.stackSound g) : SameBut P s (s.setStackSound g) := ⟨h, rfl⟩

/-- Overwriting with what the state holds changes nothing, so an outcome that commutes with overwriting leaves the stack
and ST as they were. -/
theorem agree_of_commutes {f : State → Host.Outcome State Fault Refusal}
    (hf : ∀ g, f (s.setStackSound g) = mapNext (·.setStackSound g) (f s)) (h : P s.stackSound g) :
    OutcomesAgree (SameBut P) (f s) (f (s.setStackSound g)) := by
  have kept : f s = mapNext (·.setStackSound s.stackSound) (f s) := hf s.stackSound
  rw [hf g]
  cases e : f s with
  | next u =>
    rw [e] at kept
    have hu : u = u.setStackSound s.stackSound := Host.Outcome.next.inj kept
    have hparts : u.stackSound = s.stackSound := by rw [hu, stackSound_setStackSound]
    exact sameBut_setStackSound (hparts ▸ h)
  | fault => rfl
  | refused => rfl

theorem agree_attempt {α : Type} {R : State → State → Prop} (r : Except Fault α)
    {go go' : α → Host.Outcome State Fault Refusal} (h : ∀ a, OutcomesAgree R (go a) (go' a)) :
    OutcomesAgree R (attempt r go) (attempt r go') := by
  cases r with
  | ok a => exact h a
  | error f => rfl

/-! ### The three instructions that touch the call stack or ST (spec/40_flow.md R101, R103, spec/45_keypad_timers.md R165) -/

theorem execRet_of_sp_zero (s : State) (h : ¬ 0 < s.sp.val) : execRet s = .fault .stackUnderflow := by
  rw [execRet, State.pop, dif_neg h, attempt_error]

theorem execRet_of_sp_pos (s : State) (h : 0 < s.sp.val) :
    execRet s = .next (State.setPC { s with sp := ⟨s.sp.val - 1, by omega⟩ } s.stack[s.sp.val - 1]) := by
  rw [execRet, State.pop, dif_pos h, attempt_ok]

theorem execCall_of_sp_full (nnn : Addr12) (s : State) (h : ¬ s.sp.val < 16) :
    execCall nnn s = .fault .stackOverflow := by
  rw [execCall, State.push, dif_neg h, attempt_error]

theorem execCall_of_sp_lt (nnn : Addr12) (s : State) (h : s.sp.val < 16) :
    execCall nnn s = .next (State.setPC { s with stack := s.stack.set s.sp.val s.pc, sp := ⟨s.sp.val + 1, by omega⟩ }
      (extendAddr nnn)) := by
  rw [execCall, State.push, dif_pos h, attempt_ok]

/-- `P` lets the dead entries and ST differ at most, and a pop, a push and a write of ST done on both sides keep it. -/
structure KeptOnStackAndSound (P : StackSound → StackSound → Prop) : Prop where
  sp_eq : ∀ {h g}, P h g → g.sp = h.sp
  live_eq : ∀ {h g}, P h g → ∀ j : Fin 16, j.val < h.sp.val → g.stack[j.val] = h.stack[j.val]
  pop : ∀ {h g}, P h g → ∀ n : Fin 17, n ≤ h.sp → P { h with sp := n } { g with sp := n }
  push : ∀ {h g}, P h g → ∀ (a : Word) (room : h.sp.val < 16),
    P { h with stack := h.stack.set h.sp.val a, sp := ⟨h.sp.val + 1, by omega⟩ }
      { g with stack := g.stack.set h.sp.val a, sp := ⟨h.sp.val + 1, by omega⟩ }
  sound : ∀ {h g}, P h g → ∀ b : Byte, P { h with st := b } { g with st := b }

theorem execRet_agree (hP : KeptOnStackAndSound P) (h : P s.stackSound g) :
    OutcomesAgree (SameBut P) (execRet s) (execRet (s.setStackSound g)) := by
  obtain ⟨sp, stack, st⟩ := g
  obtain rfl : sp = s.sp := hP.sp_eq h
  by_cases hpos : 0 < s.sp.val
  · have top : stack[s.sp.val - 1] = s.stack[s.sp.val - 1] :=
      hP.live_eq h ⟨s.sp.val - 1, by omega⟩ (Nat.sub_one_lt_of_lt hpos)
    rw [execRet_of_sp_pos s hpos, execRet_of_sp_pos (s.setStackSound ⟨s.sp, stack, st⟩) hpos]
    exact ⟨hP.pop h _ (Nat.sub_le _ _), congrArg (State.setPC _) top⟩
  · rw [execRet_of_sp_zero s hpos, execRet_of_sp_zero (s.setStackSound ⟨s.sp, stack, st⟩) hpos]
    rfl

theorem execCall_agree (hP : KeptOnStackAndSound P) (nnn : Addr12) (h : P s.stackSound g) :
    OutcomesAgree (SameBut P) (execCall nnn s) (execCall nnn (s.setStackSound g)) := by
  obtain ⟨sp, stack, st⟩ := g
  obtain rfl : sp = s.sp := hP.sp_eq h
  by_cases room : s.sp.val < 16
  · rw [execCall_of_sp_lt nnn s room, execCall_of_sp_lt nnn (s.setStackSound ⟨s.sp, stack, st⟩) room]
    exact ⟨hP.push h s.pc room, rfl⟩
  · rw [execCall_of_sp_full nnn s room, execCall_of_sp_full nnn (s.setStackSound ⟨s.sp, stack, st⟩) room]
    rfl

theorem execLdSTVx_agree (hP : KeptOnStackAndSound P) (x : RegIdx) (h : P s.stackSound g) :
    OutcomesAgree (SameBut P) (execLdSTVx x s) (execLdSTVx x (s.setStackSound g)) :=
  ⟨hP.sound h (s.getV x), rfl⟩

/-! ### Every instruction, every step -/

theorem stack_mem_mayChange {i : Instr} (h : Part.stack ∈ i.mayChange) : i = .ret ∨ ∃ nnn, i = .call nnn := by
  cases i <;> simp [Instr.mayChange] at h ⊢

theorem soundTimer_mem_mayChange {i : Instr} (h : Part.soundTimer ∈ i.mayChange) : ∃ x, i = .ldSTVx x := by
  cases i <;> simp [Instr.mayChange] at h ⊢

theorem exec_agree (hP : KeptOnStackAndSound P) (i : Instr) (h : P s.stackSound g) :
    OutcomesAgree (SameBut P) (exec i s) (exec i (s.setStackSound g)) := by
  by_cases hstack : Part.stack ∈ i.mayChange
  · obtain rfl | ⟨nnn, rfl⟩ := stack_mem_mayChange hstack
    · exact execRet_agree hP h
    · exact execCall_agree hP nnn h
  by_cases hsound : Part.soundTimer ∈ i.mayChange
  · obtain ⟨x, rfl⟩ := soundTimer_mem_mayChange hsound
    exact execLdSTVx_agree hP x h
  exact agree_of_commutes (fun g => exec_setStackSound s g i hstack hsound) h

theorem execute_agree (hP : KeptOnStackAndSound P) (op : Word) (h : P s.stackSound g) :
    OutcomesAgree (SameBut P) (execute op s) (execute op (s.setStackSound g)) := by
  unfold execute
  cases decodeWord op with
  | some i => exact exec_agree hP i h
  | none => rfl

/-- Neither the fetch nor the key poll reads the call stack or ST, so the step keeps what the three instructions keep. -/
theorem step_agree (hP : KeptOnStackAndSound P) (h : SameBut P s t) : OutcomesAgree (SameBut P) (step s) (step t) := by
  obtain ⟨h, e⟩ := h
  rw [e]
  have wait : (s.setStackSound t.stackSound).wait = s.wait := rfl
  unfold step
  rw [wait]
  cases s.wait with
  | some r => exact agree_of_commutes (pollStep_setStackSound s · r) h
  | none => exact agree_attempt (s.fetch s.pc.toNat) fun op => execute_agree (s := s.advance) hP op h

end Related

/-! ### ST (spec/10_state.md R19) -/

/-- The same call stack; ST is free. -/
def SameStack (h g : StackSound) : Prop := g.sp = h.sp ∧ g.stack = h.stack

theorem sameButSound_eq : SameButSound = SameBut SameStack := by
  funext s t
  refine propext ⟨fun h => ?_, fun ⟨⟨hsp, hstack⟩, h⟩ => ?_⟩
  · rw [h]
    exact ⟨⟨rfl, rfl⟩, rfl⟩
  · rw [State.setStackSound, hsp, hstack] at h
    exact h

theorem sameStack_kept : KeptOnStackAndSound SameStack where
  sp_eq h := h.1
  live_eq h j _ := by rw [h.2]
  pop h _ _ := ⟨rfl, h.2⟩
  push h _ _ := ⟨rfl, by simp only [h.2]⟩
  sound h _ := h

/-! ### Dead stack entries (spec/10_state.md R21) -/

/-- The same SP, ST and live entries; the entries at and above SP are free. -/
def SameLive (h g : StackSound) : Prop :=
  g.sp = h.sp ∧ g.st = h.st ∧ ∀ j : Fin 16, j.val < h.sp.val → g.stack[j.val] = h.stack[j.val]

theorem sameButDeadStack_eq : SameButDeadStack = SameBut SameLive := by
  funext s t
  refine propext ⟨fun ⟨h, live⟩ => ?_, fun ⟨⟨hsp, hst, live⟩, h⟩ => ?_⟩
  · have hsp : t.sp = s.sp := by rw [h]
    have hst : t.st = s.st := by rw [h]
    refine ⟨⟨hsp, hst, live⟩, ?_⟩
    rw [State.setStackSound, State.stackSound, hsp, hst]
    exact h
  · rw [State.setStackSound, hsp, hst] at h
    exact ⟨h, live⟩

theorem sameLive_kept : KeptOnStackAndSound SameLive where
  sp_eq h := h.1
  live_eq h := h.2.2
  pop := fun ⟨_, hst, live⟩ _ hn => ⟨rfl, hst, fun j hj => live j (Nat.lt_of_lt_of_le hj hn)⟩
  push := fun {h _} ⟨_, hst, live⟩ a room => ⟨rfl, hst, fun j hj => by
    have hj : j.val < h.sp.val + 1 := hj
    simp only [Vector.getElem_set]
    split
    · rfl
    · exact live j (by omega)⟩
  sound := fun ⟨hsp, _, live⟩ _ => ⟨hsp, rfl, live⟩

/-! ## The obligations of 10_state.md -/

/-- Settles O12: reset lists no memory, PC is 0x200 and no stack entry is live. -/
theorem resetStateMeetsTheInvariant : Obligations.ResetStateMeetsTheInvariant :=
  ⟨powerOn_inv Config.default 0, powerOn_inv⟩

/-- Settles O13: `State.Inv.exec` for each instruction, after a fetch that leaves PC at most 0x1000, so that a call pushes
no more than that and a skip moves PC to at most 0x1002. -/
theorem everyStepKeepsTheInvariant : Obligations.EveryStepKeepsTheInvariant :=
  fun _ _ h e => h.step.of_next e

/-- Settles O14, operation by operation; the step is O13's. -/
theorem everyHostOperationKeepsTheInvariant : Obligations.EveryHostOperationKeepsTheInvariant :=
  fun _ _ _ _ h e => applyLive_inv h e

/-- Settles O15, by induction on the operations from the power-on state. -/
theorem everySessionMeetsTheInvariant : Obligations.EverySessionMeetsTheInvariant :=
  fun cfg draws _ _ _ e => run_inv (x := .live (State.powerOn cfg draws)) (powerOn_inv cfg draws) e

/-- Settles O18, instruction by instruction along the table of what each may write. -/
theorem registersNotNamedKeepTheirValue : Obligations.RegistersNotNamedKeepTheirValue :=
  fun i s _ e k hk => (exec_keeps_unwritten s k i hk).of_next e

/-- Settles O19: every instruction but 00EE, 2nnn and Fx18 commutes with overwriting ST, and those three read no ST. -/
theorem soundTimerIsInvisibleToTheProgram : Obligations.SoundTimerIsInvisibleToTheProgram := by
  unfold Obligations.SoundTimerIsInvisibleToTheProgram
  rw [sameButSound_eq]
  exact fun _ _ => step_agree sameStack_kept

/-- Settles O20: every instruction but 00EE, 2nnn and Fx18 commutes with overwriting the stack; 00EE reads a live entry, and
2nnn makes one entry live that it has just written in both runs. -/
theorem deadStackEntriesAreInvisible : Obligations.DeadStackEntriesAreInvisible := by
  unfold Obligations.DeadStackEntriesAreInvisible
  rw [sameButDeadStack_eq]
  exact fun _ _ => step_agree sameLive_kept

end Sys2Proof.Machine
end

section
/-! PROOF. Memory: one byte and a range of bytes (spec/20_memory.md R44 to R47), and a stored word that the next step fetches
(R48, R53). -/

namespace Sys2Proof.Machine

/-! ## What a store of bytes leaves alone -/

@[simp] theorem storeBytes_pc (s : State) (a : Nat) (bs : List Byte) : (s.storeBytes a bs).pc = s.pc := by
  rw [storeBytes_fields]

@[simp] theorem storeBytes_wait (s : State) (a : Nat) (bs : List Byte) : (s.storeBytes a bs).wait = s.wait := by
  rw [storeBytes_fields]

/-- A state that differs in its memory list alone reads the same in every item but memory. -/
theorem onlyChanges_memory {s t : State} (h : t = { s with mem := t.mem }) : OnlyChanges s t [.memory] := by
  rw [h]
  refine ⟨rfl, fun p hp => ?_⟩
  cases p with
  | memory => exact absurd (List.mem_singleton_self _) hp
  | stack => exact ⟨rfl, fun _ => rfl⟩
  | regs | keys => exact fun _ => rfl
  | screen => exact fun _ _ => rfl
  | index | pc | delayTimer | soundTimer | wait | draws => rfl

/-! ## One byte (spec/20_memory.md R44, R45) -/

theorem memRead_of_le (s : State) {a : Nat} (h : a ≤ 0xFFF) : s.memRead a = .ok (s.memGet a) :=
  if_neg (Nat.not_lt.2 h)

theorem memRead_of_gt (s : State) {a : Nat} (h : a > 0xFFF) : s.memRead a = .error .outOfBounds := if_pos h

theorem memWrite_of_le (s : State) {a : Nat} (b : Byte) (h : a ≤ 0xFFF) : s.memWrite a b = .ok (s.memSet a b) :=
  if_neg (Nat.not_lt.2 h)

theorem memWrite_of_gt (s : State) {a : Nat} (b : Byte) (h : a > 0xFFF) : s.memWrite a b = .error .outOfBounds :=
  if_pos h

theorem memRead_memSet_same (s : State) {a : Nat} (b : Byte) (wf : s.MemWf) (h : a ≤ 0xFFF) :
    (s.memSet a b).memRead a = .ok b := by
  rw [memRead_of_le _ h, memGet_memSet s a a b wf, if_pos rfl]

theorem memRead_memSet_ne (s : State) {a c : Nat} (b : Byte) (wf : s.MemWf) (h : c ≠ a) :
    (s.memSet a b).memRead c = s.memRead c := by
  rw [State.memRead, State.memRead, memGet_memSet s a c b wf, if_neg h]

/-! ## A range, byte by byte (spec/20_memory.md R47) -/

/-- A range leaves memory where its first byte does or where the rest does. -/
theorem outOfRange_succ (a n : Nat) : outOfRange a (n + 1) = (decide (a > 0xFFF) || outOfRange (a + 1) n) := by
  rw [Bool.eq_iff_iff, Bool.or_eq_true, outOfRange_iff, outOfRange_iff, decide_eq_true_eq]
  omega

theorem bytesAt_succ (s : State) (a n : Nat) : s.bytesAt a (n + 1) = s.memGet a :: s.bytesAt (a + 1) n := by
  simp [State.bytesAt, List.range_succ_eq_map, Nat.add_assoc, Nat.add_comm 1]

theorem readRange_eq_readEach (n : Nat) (s : State) (a : Nat) : s.readRange a n = s.readEach a n := by
  induction n generalizing a with
  | zero => rfl
  | succ n ih =>
    rw [State.readEach, ← ih, State.readRange, State.readRange, outOfRange_succ, bytesAt_succ]
    by_cases h : a > 0xFFF
    · simp [memRead_of_gt s h, h]
    · rw [memRead_of_le s (Nat.le_of_not_lt h), decide_eq_false h, Bool.false_or]
      cases outOfRange (a + 1) n <;> rfl

theorem writeRange_eq_writeEach (bs : List Byte) (s : State) (a : Nat) : s.writeRange a bs = s.writeEach a bs := by
  induction bs generalizing s a with
  | nil => rfl
  | cons b bs ih =>
    rw [State.writeEach, State.writeRange, List.length_cons, outOfRange_succ]
    by_cases h : a > 0xFFF
    · simp [memWrite_of_gt s b h, h]
    · rw [memWrite_of_le s b (Nat.le_of_not_lt h), decide_eq_false h, Bool.false_or]
      exact ih (s.memSet a b) (a + 1)

/-! ## A stored word is what the next step runs (spec/20_memory.md R48, R53, spec/30_encoding.md R66) -/

theorem step_of_fetch {s : State} {op : Word} (hwait : s.wait = none) (hfetch : s.fetch s.pc.toNat = .ok op) :
    step s = execute op s.advance := by
  rw [step, hwait]
  show fetchAndRun s = _
  rw [fetchAndRun, hfetch, attempt_ok]

/-- The first two bytes of a store are the word at its address, the first byte the high one. -/
theorem fetch_storeBytes (s : State) (a : Nat) (bs : List Byte) (wf : s.MemWf) (two : 2 ≤ bs.length)
    (inside : a + bs.length ≤ 4096) : (s.storeBytes a bs).fetch a = .ok (bs.getD 0 0 ++ bs.getD 1 0) := by
  rw [fetch_eq, if_neg (by omega), memGet_storeBytes bs s a a inside wf, memGet_storeBytes bs s a (a + 1) inside wf,
    if_pos (by omega), if_pos (by omega), Nat.sub_self, Nat.add_sub_cancel_left]

/-- Bytes stored from PC upward: the next step executes the word of the first two. -/
theorem step_storeBytes_at_pc (s : State) (bs : List Byte) (wf : s.MemWf) (hwait : s.wait = none)
    (two : 2 ≤ bs.length) (inside : s.pc.toNat + bs.length ≤ 4096) :
    step (s.storeBytes s.pc.toNat bs) =
      execute (bs.getD 0 0 ++ bs.getD 1 0) (s.storeBytes s.pc.toNat bs).advance := by
  refine step_of_fetch ((storeBytes_wait ..).trans hwait) ?_
  rw [storeBytes_pc]
  exact fetch_storeBytes s s.pc.toNat bs wf two inside

theorem execStRegs_of_le (x : RegIdx) (s : State) (h : s.i.toNat + x.val ≤ 0xFFF) :
    exec (.stRegs x) s = .next (s.storeBytes s.i.toNat (s.regsThrough x)) := by
  show attempt (s.writeRange s.i.toNat (s.regsThrough x)) _ = _
  rw [writeRange_eq, regsThrough_length, if_neg (by omega), attempt_ok]

/-! ### A word placed at the fetch point (assumption log 17) -/

theorem fetchPoint_le (s : State) : s.fetchPoint.toNat ≤ 0xFFE := by
  rw [State.fetchPoint]
  split
  · decide
  · omega

theorem step_placeWord (s : State) (op : Word) (wf : s.MemWf) :
    step (s.placeWord op) = execute op (s.placeWord op).advance := by
  have h := step_storeBytes_at_pc ((s.setPC s.fetchPoint).setWait none) [highByte op, lowByte op] wf rfl (by simp)
    (Nat.add_le_add_right (fetchPoint_le s) 2)
  exact h.trans (congrArg (execute · _) (wordOfBytes_high_low op))

/-- The bytes of a table word are read back as the word, so the table decoder is the word decoder (R48). -/
theorem decodeTableWord_eq (nbits w : Nat) : decodeTableWord nbits w = decodeWord (BitVec.ofNat 16 (w % 2 ^ nbits)) := by
  simp only [decodeTableWord, decode, wordOfBytes_high_low]
  cases decodeWord (BitVec.ofNat 16 (w % 2 ^ nbits)) <;> rfl

theorem execute_of_decodeWord {op : Word} {i : Instr} (s : State) (h : decodeWord op = some i) :
    execute op s = exec i s := by
  rw [execute, h]

/-! ## The obligations of 20_memory.md -/

/-- Settles O8: the placed bytes are the word at the fetch point, and the step fetches and decodes them there. -/
theorem placedWordRunsNext : Obligations.PlacedWordRunsNext := by
  intro s w i wf hdecode
  rw [decodeTableWord_eq] at hdecode
  exact (step_placeWord s _ wf).trans (execute_of_decodeWord _ hdecode)

/-- Settles O42: with I = PC the store of at least two registers puts V[0] and V[1] where the next step fetches. -/
theorem storedCodeRunsAtTheNextStep : Obligations.StoredCodeRunsAtTheNextStep := by
  intro x s wf hx hwait hi inside
  refine ⟨_, execStRegs_of_le x s inside, ?_⟩
  rw [hi] at inside ⊢
  have hlen : (s.regsThrough x).length = x.val + 1 := regsThrough_length s x
  have h := step_storeBytes_at_pc s (s.regsThrough x) wf hwait (by omega) (by omega)
  have h0 : (s.regsThrough x).getD 0 0 = s.getV 0 := regsThrough_getD s x 0 (Fin.zero_le x)
  have h1 : (s.regsThrough x).getD 1 0 = s.getV 1 := regsThrough_getD s x 1 hx
  rw [h, h0, h1, State.advance, storeBytes_pc]

/-- Settles O44: the whole check is the check of the first byte or of the rest, by induction on the length and on the list. -/
theorem wholeRangeCheckEqualsByteByByte : Obligations.WholeRangeCheckEqualsByteByByte :=
  fun s a => ⟨fun n => readRange_eq_readEach n s a, fun bs => writeRange_eq_writeEach bs s a⟩

/-- Settles O43: both accesses make one check of the address, and the canonical memory reads back what is set. -/
theorem byteReadsBackAsWritten : Obligations.ByteReadsBackAsWritten := by
  intro s a b
  refine ⟨fun h => ⟨memWrite_of_gt s b h, memRead_of_gt s h⟩, fun h => ?_⟩
  refine ⟨s.memSet a b, memWrite_of_le s b h, onlyChanges_memory rfl, fun wf => ?_⟩
  exact ⟨memSet_memWf s a b (by omega) wf, memRead_memSet_same s b wf h, fun c hc => memRead_memSet_ne s b wf hc⟩

end Sys2Proof.Machine
end

section
/-! PROOF. The encoding: the decoder and the encoder are inverse to each other (spec/30_encoding.md R62, R63, R69), the decoder
follows the opcode table (R70), and the illegal words (R71). -/

namespace Sys2Proof

/-! ## The decoder undoes the encoder (spec/30_encoding.md R62, R63, R69) -/

theorem decodeWord_formatXY_class8 (x y : RegIdx) (sel : BitVec 4) :
    decodeWord (formatXY 0x8 x y sel) = decodeClass8 x y sel := by simp [decodeWord]

theorem decodeWord_formatXKK_classE (x : RegIdx) (kk : Byte) :
    decodeWord (formatXKK 0xE x kk) = decodeClassE x kk := by simp [decodeWord]

theorem decodeWord_formatXKK_classF (x : RegIdx) (kk : Byte) :
    decodeWord (formatXKK 0xF x kk) = decodeClassF x kk := by simp [decodeWord]

/-- The row count is the one operand that the word's field may not hold (assumption log 18). -/
theorem decodeWord_encode_drw (x y : RegIdx) {n : Nat} (h : n ≤ 15) :
    decodeWord (encode (.drw x y n)) = some (.drw x y n) := by
  have hn : (BitVec.ofNat 4 n).toNat = n := by
    rw [BitVec.toNat_ofNat]
    exact Nat.mod_eq_of_lt (by omega)
  simp [encode, decodeWord, fieldN, -BitVec.toNat_ofNat, hn]

theorem decodeWord_encode : ∀ i : Instr, i.wellFormed = true → decodeWord (encode i) = some i
  | .nop, _ | .cls, _ | .ret, _ => rfl
  | .jp _, _ | .call _, _ | .ldI _, _ | .jpV0 _, _ | .seV _ _, _ | .sneV _ _, _
  | .seKk _ _, _ | .sneKk _ _, _ | .ldKk _ _, _ | .addKk _ _, _ | .rnd _ _, _ => by simp [encode, decodeWord]
  | .ldV x y, _ | .orV x y, _ | .andV x y, _ | .xorV x y, _ | .addV x y, _ | .subV x y, _ | .shr x y, _
  | .subnV x y, _ | .shl x y, _ => decodeWord_formatXY_class8 x y _
  | .drw x y _, h => decodeWord_encode_drw x y (of_decide_eq_true h)
  | .skp x, _ | .sknp x, _ => decodeWord_formatXKK_classE x _
  | .ldVxDT x, _ | .ldVxK x, _ | .ldDTVx x, _ | .ldSTVx x, _ | .addI x, _ | .ldF x, _ | .ldB x, _ | .stRegs x, _
  | .ldRegs x, _ => decodeWord_formatXKK_classF x _

/-! ## The encoder undoes the decoder (R62, R63, R73) -/

/-- The instruction has the encoding `op`. -/
def Instr.Encodes (i : Instr) (op : Word) : Prop := encode i = op ∧ i.wellFormed = true

theorem decodeClass0_encodes {op : Word} {i : Instr} (h : decodeClass0 op = some i) : i.Encodes op := by
  unfold decodeClass0 at h
  split_ifs at h with e e e
  all_goals
    cases h
    exact ⟨e.symm, rfl⟩

theorem decodeClass8_encodes {x y : RegIdx} {sel : BitVec 4} {i : Instr} (h : decodeClass8 x y sel = some i) :
    i.Encodes (formatXY 0x8 x y sel) := by
  unfold decodeClass8 at h
  split_ifs at h with e e e e e e e e e
  all_goals
    cases h
    rw [e]
    exact ⟨rfl, rfl⟩

theorem decodeClassE_encodes {x : RegIdx} {kk : Byte} {i : Instr} (h : decodeClassE x kk = some i) :
    i.Encodes (formatXKK 0xE x kk) := by
  unfold decodeClassE at h
  split_ifs at h with e e
  all_goals
    cases h
    rw [e]
    exact ⟨rfl, rfl⟩

theorem decodeClassF_encodes {x : RegIdx} {kk : Byte} {i : Instr} (h : decodeClassF x kk = some i) :
    i.Encodes (formatXKK 0xF x kk) := by
  unfold decodeClassF at h
  split_ifs at h with e e e e e e e e e
  all_goals
    cases h
    rw [e]
    exact ⟨rfl, rfl⟩

section Class

variable {op : Word} {cls : BitVec 4} (hc : (opClass op).toNat = cls.toNat)
include hc

theorem formatNNN_of_opClass : formatNNN cls (fieldNnn op) = op := by
  rw [← BitVec.eq_of_toNat_eq hc, formatNNN_fields]

theorem formatXKK_of_opClass : formatXKK cls (fieldX op) (fieldKk op) = op := by
  rw [← BitVec.eq_of_toNat_eq hc, formatXKK_fields]

theorem formatXY_of_opClass : formatXY cls (fieldX op) (fieldY op) (selector op) = op := by
  rw [← BitVec.eq_of_toNat_eq hc, formatXY_fields]

theorem formatXY_of_selector {sel : BitVec 4} (hs : selector op = sel) :
    formatXY cls (fieldX op) (fieldY op) sel = op := hs ▸ formatXY_of_opClass hc

end Class

theorem fieldN_le (op : Word) : fieldN op ≤ 15 := Nat.le_of_lt_succ (selector op).isLt

theorem ofNat_fieldN (op : Word) : BitVec.ofNat 4 (fieldN op) = selector op := by
  rw [fieldN, BitVec.ofNat_toNat, BitVec.setWidth_eq]

theorem decodeWord_encodes {op : Word} {i : Instr} (h : decodeWord op = some i) : i.Encodes op := by
  unfold decodeWord at h
  split at h
  case h_1 => exact decodeClass0_encodes h
  case h_2 hc | h_3 hc | h_11 hc | h_12 hc =>
    cases h
    exact ⟨formatNNN_of_opClass hc, rfl⟩
  case h_4 hc | h_5 hc | h_7 hc | h_8 hc | h_13 hc =>
    cases h
    exact ⟨formatXKK_of_opClass hc, rfl⟩
  case h_6 hc | h_10 hc =>
    split_ifs at h with hs
    cases h
    exact ⟨formatXY_of_selector hc hs, rfl⟩
  case h_9 hc => exact formatXY_of_opClass (cls := 0x8) hc ▸ decodeClass8_encodes h
  case h_14 hc =>
    cases h
    exact ⟨formatXY_of_selector hc (ofNat_fieldN op).symm, decide_eq_true (fieldN_le op)⟩
  case h_15 hc => exact formatXKK_of_opClass (cls := 0xE) hc ▸ decodeClassE_encodes h
  case h_16 =>
    have hc : (opClass op).toNat = 15 := by
      simp only [imp_false] at *
      omega
    exact formatXKK_of_opClass (cls := 0xF) hc ▸ decodeClassF_encodes h

/-! ## The opcode table (R70) -/

open Laws.EncodingMatchesRow in
theorem encode_and_mask (i : Instr) : encode i &&& i.row.mask = i.row.pattern := by
  cases i
  exacts [cls, ret, jp _, call _, seKk _ _, sneKk _ _, seV _ _, ldKk _ _, addKk _ _, ldV _ _, orV _ _, andV _ _,
    xorV _ _, addV _ _, subV _ _, shr _ _, subnV _ _, shl _ _, sneV _ _, ldI _, jpV0 _, rnd _ _, drw _ _ _, skp _,
    sknp _, ldVxDT _, ldVxK _, ldDTVx _, ldSTVx _, addI _, ldF _, ldB _, stRegs _, ldRegs _, nop]

theorem row_mem_opcodeTable (i : Instr) : i.row ∈ opcodeTable := by
  cases i <;> exact List.mem_of_elem_eq_true rfl

section Covered

variable {op mask pattern : Word} (h : op &&& mask = pattern)
include h

/-- A mask fixes the bits of a field where it has ones. -/
theorem extractLsb'_of_mask {start len : Nat} (ones : mask.extractLsb' start len = BitVec.allOnes len) :
    op.extractLsb' start len = pattern.extractLsb' start len := by
  rw [← h, BitVec.extractLsb'_and, ones, BitVec.and_allOnes]

theorem opClass_of_mask (ones : opClass mask = 0xF := by rfl) : opClass op = opClass pattern := extractLsb'_of_mask h ones

theorem selector_of_mask (ones : selector mask = 0xF := by rfl) : selector op = selector pattern := extractLsb'_of_mask h ones

theorem fieldKk_of_mask (ones : fieldKk mask = 0xFF := by rfl) : fieldKk op = fieldKk pattern := extractLsb'_of_mask h ones

end Covered

/-- A row that covers a word is the row of the instruction the word decodes to: its mask fixes what the decoder looks at. -/
theorem decodeWord_row_of_mask (j : Instr) {op : Word} (h : op &&& j.row.mask = j.row.pattern) :
    (decodeWord op).map Instr.row = some j.row := by
  cases j <;> dsimp only [Instr.row] at h
  case nop | cls | ret =>
    obtain rfl : op = _ := BitVec.and_allOnes.symm.trans h
    rfl
  case jp | call | seKk | sneKk | ldKk | addKk | ldI | jpV0 | rnd | drw =>
    rw [decodeWord, opClass_of_mask h]
    rfl
  case seV | sneV | ldV | orV | andV | xorV | addV | subV | shr | subnV | shl =>
    rw [decodeWord, opClass_of_mask h, selector_of_mask h]
    rfl
  case skp | sknp | ldVxDT | ldVxK | ldDTVx | ldSTVx | addI | ldF | ldB | stRegs | ldRegs =>
    rw [decodeWord, opClass_of_mask h, fieldKk_of_mask h]
    rfl

theorem exists_decodeWord_of_covers {op : Word} {r : OpcodeRow} (hr : r ∈ opcodeTable) (hc : r.covers op = true) :
    ∃ i, decodeWord op = some i ∧ i.row = r := by
  obtain ⟨j, -, rfl⟩ := List.mem_map.1 hr
  exact Option.map_eq_some_iff.1 (decodeWord_row_of_mask j (beq_iff_eq.1 hc))

theorem row_covers_of_decodeWord {op : Word} {i : Instr} (h : decodeWord op = some i) : i.row.covers op = true := by
  obtain ⟨rfl, -⟩ := decodeWord_encodes h
  exact beq_iff_eq.2 (encode_and_mask i)

/-! ## The illegal words (R71) -/

theorem decodeClass0_eq_none (op : Word) :
    decodeClass0 op = none ↔ op.toNat ≠ 0 ∧ op.toNat ≠ 0x00E0 ∧ op.toNat ≠ 0x00EE := by
  simp [decodeClass0, ite_eq_iff, BitVec.toNat_eq]

theorem decodeClass8_eq_none (x y : RegIdx) (sel : BitVec 4) :
    decodeClass8 x y sel = none ↔ sel.toNat ∈ [0x8, 0x9, 0xA, 0xB, 0xC, 0xD, 0xF] := by
  simp only [decodeClass8, ite_eq_iff, reduceCtorEq, and_false, false_or, and_true, List.mem_cons,
    List.not_mem_nil, or_false]
  bv_omega

theorem decodeClassE_eq_none (x : RegIdx) (kk : Byte) : decodeClassE x kk = none ↔ kk.toNat ∉ [0x9E, 0xA1] := by
  simp [decodeClassE, ite_eq_iff, BitVec.toNat_eq]

theorem decodeClassF_eq_none (x : RegIdx) (kk : Byte) :
    decodeClassF x kk = none ↔ kk.toNat ∉ [0x07, 0x0A, 0x15, 0x18, 0x1E, 0x29, 0x33, 0x55, 0x65] := by
  simp [decodeClassF, ite_eq_iff, BitVec.toNat_eq]

/-! ## The obligations of 30_encoding.md on the encoding -/

/-- Settles O1, format by format; only the row count of Dxyn needs the well-formedness. -/
theorem decodeOfEncodeIsTheInstruction : Obligations.DecodeOfEncodeIsTheInstruction := decodeWord_encode

/-- Settles O2, class by class: the instruction keeps every field of the word, so the word is put together again from them. -/
theorem encodeOfDecodeIsTheWord : Obligations.EncodeOfDecodeIsTheWord := fun _ _ => decodeWord_encodes

/-- Settles O3: by O2 a word is covered by the row of what it decodes to, and a row that covers a word fixes what it decodes
to, so no second row covers it. -/
theorem decoderFollowsTheOpcodeTable : Obligations.DecoderFollowsTheOpcodeTable := by
  intro op
  refine ⟨fun i h => ⟨row_mem_opcodeTable i, row_covers_of_decodeWord h, fun r hr hc => ?_⟩, fun h r hr => ?_,
    fun h => ?_⟩
  · obtain ⟨j, hj, rfl⟩ := exists_decodeWord_of_covers hr hc
    rw [Option.some.inj (hj.symm.trans h)]
  · refine eq_false_of_ne_true fun hc => ?_
    obtain ⟨j, hj, -⟩ := exists_decodeWord_of_covers hr hc
    simp [h] at hj
  · refine Option.eq_none_iff_forall_ne_some.2 fun i hi => ?_
    exact absurd (row_covers_of_decodeWord hi) (ne_true_of_eq_false (h i.row (row_mem_opcodeTable i)))

/-- Settles O4, class by class: what each class leaves out, as numbers. -/
theorem illegalWordsAreThoseOfTheClassTable : Obligations.IllegalWordsAreThoseOfTheClassTable := by
  intro op
  rw [decodeWord, opClass_toNat]
  split
  case h_1 hc => simp [hc, decodeClass0_eq_none]
  case h_6 hc | h_10 hc => simp [hc, BitVec.toNat_eq, selector_toNat]
  case h_9 hc => simp [hc, decodeClass8_eq_none, selector_toNat]
  case h_15 hc => simp [hc, decodeClassE_eq_none, fieldKk_toNat]
  case h_16 =>
    have hc : op.toNat / 4096 = 15 := by
      simp only [imp_false] at *
      omega
    simp [hc, decodeClassF_eq_none, fieldKk_toNat]
  case h_2 hc | h_3 hc | h_4 hc | h_5 hc | h_7 hc | h_8 hc | h_11 hc | h_12 hc | h_13 hc | h_14 hc => simp [hc]

end Sys2Proof
end

section
/-! PROOF. The step of spec/30_encoding.md R66, the key poll of R67, and the frame of every instruction (R70, on the spec's
decision D10). -/

namespace Sys2Proof.Machine

/-! ## Frames, one rule per operation of the state -/

section Frame

variable {s t u : State} {parts qs : List Part}

theorem Part.Same.refl (s : State) (p : Part) : p.Same s s := by
  cases p with
  | stack => exact ⟨rfl, fun _ => rfl⟩
  | regs | memory | keys => exact fun _ => rfl
  | screen => exact fun _ _ => rfl
  | index | pc | delayTimer | soundTimer | wait | draws => rfl

theorem Part.Same.trans {p : Part} (h : p.Same s t) (g : p.Same t u) : p.Same s u := by
  cases p with
  | stack => exact ⟨g.1.trans h.1, fun j => (g.2 j).trans (h.2 j)⟩
  | regs | memory | keys => exact fun a => (g a).trans (h a)
  | screen => exact fun c r => (g c r).trans (h c r)
  | index | pc | delayTimer | soundTimer | wait | draws => exact Eq.trans g h

theorem OnlyChanges.refl (s : State) (parts : List Part) : OnlyChanges s s parts := ⟨rfl, fun p _ => .refl s p⟩

/-- What two changes one after the other leave alone. -/
theorem OnlyChanges.trans (h : OnlyChanges s t parts) (g : OnlyChanges t u qs) : OnlyChanges s u (parts ++ qs) := by
  obtain ⟨hcfg, same⟩ := h
  obtain ⟨gcfg, same'⟩ := g
  refine ⟨gcfg.trans hcfg, fun p hp => ?_⟩
  rw [List.mem_append, not_or] at hp
  exact (same p hp.1).trans (same' p hp.2)

/-- A change of the fields of one item changes that item only: each other item reads fields that stay as they are. -/
theorem onlyChanges_of_fields (hcfg : t.cfg = s.cfg := by rfl)
    (regs : .regs ∈ parts ∨ t.v = s.v := by exact .inr rfl)
    (index : .index ∈ parts ∨ t.i = s.i := by exact .inr rfl)
    (pc : .pc ∈ parts ∨ t.pc = s.pc := by exact .inr rfl)
    (stack : .stack ∈ parts ∨ t.sp = s.sp ∧ t.stack = s.stack := by exact .inr ⟨rfl, rfl⟩)
    (memory : .memory ∈ parts ∨ t.mem = s.mem := by exact .inr rfl)
    (screen : .screen ∈ parts ∨ t.fb = s.fb := by exact .inr rfl)
    (keys : .keys ∈ parts ∨ t.key = s.key := by exact .inr rfl)
    (delayTimer : .delayTimer ∈ parts ∨ t.dt = s.dt := by exact .inr rfl)
    (soundTimer : .soundTimer ∈ parts ∨ t.st = s.st := by exact .inr rfl)
    (wait : .wait ∈ parts ∨ t.wait = s.wait := by exact .inr rfl)
    (draws : .draws ∈ parts ∨ t.draws = s.draws := by exact .inr rfl) : OnlyChanges s t parts := by
  refine ⟨hcfg, fun p hp => ?_⟩
  cases p with
  | regs => exact fun k => by rw [State.getV, regs.resolve_left hp, State.getV]
  | stack =>
    obtain ⟨hsp, hstack⟩ := stack.resolve_left hp
    exact ⟨hsp, fun j => by rw [hstack]⟩
  | memory => exact fun a => by rw [State.memGet, memory.resolve_left hp, hcfg, State.memGet]
  | screen => exact fun c r => by rw [State.pixel, screen.resolve_left hp, State.pixel]
  | keys => exact fun k => by rw [State.keyDown, keys.resolve_left hp, State.keyDown]
  | index => exact index.resolve_left hp
  | pc => exact pc.resolve_left hp
  | delayTimer => exact delayTimer.resolve_left hp
  | soundTimer => exact soundTimer.resolve_left hp
  | wait => exact wait.resolve_left hp
  | draws => exact draws.resolve_left hp

end Frame

section Operations

variable (s : State)

theorem onlyChanges_setV (x : RegIdx) (b : Byte) : OnlyChanges s (s.setV x b) [.regs] :=
  onlyChanges_of_fields (regs := .inl (.head _))

theorem onlyChanges_setFlag (g : Bool) : OnlyChanges s (s.setFlag g) [.regs] := onlyChanges_setV s vf _

theorem onlyChanges_setResultThenFlag (x : RegIdx) (b : Byte) (g : Bool) :
    OnlyChanges s (s.setResultThenFlag x b g) [.regs] := onlyChanges_of_fields (regs := .inl (.head _))

theorem onlyChanges_setRegsFrom (j : Nat) (bs : List Byte) : OnlyChanges s (s.setRegsFrom j bs) [.regs] := by
  rw [setRegsFrom_fields]
  exact onlyChanges_of_fields (regs := .inl (.head _))

theorem onlyChanges_setI (a : Word) : OnlyChanges s (s.setI a) [.index] :=
  onlyChanges_of_fields (index := .inl (.head _))

theorem onlyChanges_setPC (a : Word) : OnlyChanges s (s.setPC a) [.pc] := onlyChanges_of_fields (pc := .inl (.head _))

theorem onlyChanges_skipIf (c : Bool) : OnlyChanges s (s.skipIf c) [.pc] := by
  cases c with
  | false => exact .refl s _
  | true => exact onlyChanges_setPC s _

theorem onlyChanges_setDT (b : Byte) : OnlyChanges s (s.setDT b) [.delayTimer] :=
  onlyChanges_of_fields (delayTimer := .inl (.head _))

theorem onlyChanges_setST (b : Byte) : OnlyChanges s (s.setST b) [.soundTimer] :=
  onlyChanges_of_fields (soundTimer := .inl (.head _))

theorem onlyChanges_setWait (w : Option RegIdx) : OnlyChanges s (s.setWait w) [.wait] :=
  onlyChanges_of_fields (wait := .inl (.head _))

theorem onlyChanges_setFB (fb : Framebuffer) : OnlyChanges s (s.setFB fb) [.screen] :=
  onlyChanges_of_fields (screen := .inl (.head _))

theorem onlyChanges_countDraw : OnlyChanges s s.countDraw [.draws] := onlyChanges_of_fields (draws := .inl (.head _))

end Operations

section Checked

variable {s t : State}

theorem onlyChanges_of_push {a : Word} (h : s.push a = .ok t) : OnlyChanges s t [.stack] := by
  obtain ⟨u, hu, -, -, -, hfields⟩ | ⟨hf, -⟩ := push_cases s a
  · obtain rfl : u = t := by simpa [hu] using h
    rw [hfields]
    exact onlyChanges_of_fields (stack := .inl (.head _))
  · simp [hf] at h

theorem onlyChanges_of_pop {r : Word × State} (h : s.pop = .ok r) : OnlyChanges s r.2 [.stack] := by
  obtain ⟨a, u, hu, -, -, -, hfields⟩ | ⟨hf, -⟩ := pop_cases s
  · obtain rfl : (a, u) = r := by simpa [hu] using h
    show OnlyChanges s u _
    rw [hfields]
    exact onlyChanges_of_fields (stack := .inl (.head _))
  · simp [hf] at h

theorem onlyChanges_of_writeRange {a : Nat} {bs : List Byte} (h : s.writeRange a bs = .ok t) :
    OnlyChanges s t [.memory] := by
  rw [writeRange_eq] at h
  split at h
  · cases h
  · cases h
    exact onlyChanges_memory (storeBytes_fields bs s a)

end Checked

/-! ## The frame of every instruction (R70, D10) -/

/-- Along the table of what each row names, an instruction that writes two items being two operations in that order. -/
theorem exec_onlyChanges (s : State) : ∀ i : Instr, NextMeets (OnlyChanges s · i.mayChange) (exec i s)
  | .nop => .refl s _
  | .cls => onlyChanges_setFB s _
  | .ret => nextMeets_attempt fun _ hp => (onlyChanges_of_pop hp).trans (onlyChanges_setPC _ _)
  | .call _ => nextMeets_attempt fun _ hp => (onlyChanges_of_push hp).trans (onlyChanges_setPC _ _)
  | .jp _ | .jpV0 _ => onlyChanges_setPC s _
  | .seKk _ _ | .sneKk _ _ | .seV _ _ | .sneV _ _ | .skp _ | .sknp _ => onlyChanges_skipIf s _
  | .ldKk _ _ | .addKk _ _ | .ldV _ _ | .orV _ _ | .andV _ _ | .xorV _ _ | .ldVxDT _ => onlyChanges_setV s _ _
  | .addV _ _ | .subV _ _ | .shr _ _ | .subnV _ _ | .shl _ _ => onlyChanges_setResultThenFlag s _ _ _
  | .ldRegs _ => nextMeets_attempt fun bs _ => onlyChanges_setRegsFrom s 0 bs
  | .rnd _ _ => (onlyChanges_setV s _ _).trans (onlyChanges_countDraw _)
  | .drw _ _ _ => nextMeets_attempt fun _ _ => (onlyChanges_setFB s _).trans (onlyChanges_setFlag _ _)
  | .ldI _ | .ldF _ => onlyChanges_setI s _
  | .addI _ => by
    show OnlyChanges s (if _ then _ else _) _
    split
    · exact (onlyChanges_setI s _).trans (onlyChanges_setFlag _ _)
    · exact (onlyChanges_setI s _).trans (.refl _ [.regs])
  | .ldB _ | .stRegs _ => nextMeets_attempt fun _ hw => onlyChanges_of_writeRange hw
  | .ldVxK _ => onlyChanges_setWait s _
  | .ldDTVx _ => onlyChanges_setDT s _
  | .ldSTVx _ => onlyChanges_setST s _

/-! ## The step, case by case (R66, R67) -/

section Step

variable {s : State}

theorem step_of_wait {r : RegIdx} (h : s.wait = some r) : step s = .next (s.pollKeys r) := by
  rw [step, h]
  rfl

theorem step_of_pc_gt (hwait : s.wait = none) (hpc : s.pc.toNat > 0xFFE) : step s = .fault .outOfBounds := by
  rw [step, hwait]
  show fetchAndRun s = _
  rw [fetchAndRun, fetch_eq, if_pos hpc, attempt_error]

theorem step_of_pc_le (hwait : s.wait = none) (hpc : s.pc.toNat ≤ 0xFFE) :
    step s = execute (wordOfBytes (s.memGet s.pc.toNat) (s.memGet (s.pc.toNat + 1))) s.advance :=
  step_of_fetch hwait (by rw [fetch_eq, if_neg (Nat.not_lt.2 hpc), wordOfBytes])

/-- The number of two bytes, the first byte the high one (spec/20_memory.md R48). -/
theorem wordOfBytes_toNat (high low : Byte) : (wordOfBytes high low).toNat = high.toNat * 256 + low.toNat :=
  toNat_append_add high low

theorem decodeWord_of_decode {high low : Byte} {i : Instr} {rest more : List Byte}
    (h : decode (high :: low :: rest) = .ok (i, more)) : decodeWord (wordOfBytes high low) = some i := by
  rw [decode] at h
  split at h
  next e =>
    cases h
    exact e
  next => cases h

theorem pollKeys_of_lowestKey {k : KeyIdx} (r : RegIdx) (h : s.lowestKey = some k) :
    s.pollKeys r = (s.setV r (BitVec.ofNat 8 k.val)).setWait none := by
  rw [State.pollKeys, h]

theorem pollKeys_of_no_key (r : RegIdx) (h : s.lowestKey = none) : s.pollKeys r = s := by
  rw [State.pollKeys, h]

end Step

/-! ## The obligations of 30_encoding.md on the step -/

/-- Settles O17, instruction by instruction, from the frame of each operation of the state. -/
theorem instructionsChangeOnlyTheirParts : Obligations.InstructionsChangeOnlyTheirParts :=
  fun i s _ e => (exec_onlyChanges s i).of_next e

/-- Settles O6: the three cases of the step; a word is given by its number, which is that of its two bytes. -/
theorem stepPollsOrFetchesAdvancesAndExecutes : Obligations.StepPollsOrFetchesAdvancesAndExecutes := by
  refine fun s => ⟨fun r => step_of_wait, step_of_pc_gt, fun hwait hpc op hop => ?_⟩
  obtain rfl := BitVec.eq_of_toNat_eq (hop.trans (wordOfBytes_toNat ..).symm)
  exact step_of_pc_le hwait hpc

/-- Settles O7: the decoder of bytes decodes the word that the fetch reads. -/
theorem stepRunsTheDecodedInstruction : Obligations.StepRunsTheDecodedInstruction :=
  fun _ _ hwait hpc hdecode =>
    (step_of_pc_le hwait hpc).trans (execute_of_decodeWord _ (decodeWord_of_decode hdecode))

/-- Settles O9: the poll takes the lowest key, and a key's number fits a byte. -/
theorem keyPollTakesTheLeastKeyDown : Obligations.KeyPollTakesTheLeastKeyDown := by
  intro s r hwait
  rw [step_of_wait hwait]
  refine ⟨fun k down least => ?_, fun up => ?_⟩
  · rw [pollKeys_of_lowestKey r ((lowestKey_some s k).2 ⟨down, least⟩)]
    refine ⟨_, rfl, ?_, rfl, fun q hq => ?_, (onlyChanges_setV s r _).trans (onlyChanges_setWait _ _)⟩
    · rw [setWait_getV, getV_setV, if_pos rfl, BitVec.toNat_ofNat]
      exact Nat.mod_eq_of_lt (by omega)
    · rw [setWait_getV, getV_setV, if_neg hq]
  · rw [pollKeys_of_no_key r ((lowestKey_none s).2 up)]

end Sys2Proof.Machine
end

section
/-! PROOF. Control transfer (spec/40_flow.md R100 to R104), and the end state of a run (spec/70_reset_and_hazards.md R256). -/

namespace Sys2Proof.Machine

/-! ## The targets of a jump (R102, R104) -/

theorem extendAddr_toNat (nnn : Addr12) : (extendAddr nnn).toNat = nnn.toNat :=
  BitVec.toNat_setWidth_of_le (by decide)

theorem offsetTarget_toNat (nnn : Addr12) (b : Byte) : (offsetTarget nnn b).toNat = nnn.toNat + b.toNat := by
  have := nnn.isLt
  have := b.isLt
  rw [offsetTarget, BitVec.toNat_ofNat, Nat.mod_eq_of_lt (by omega)]

/-! ## PC -/

theorem setPC_pc_self (s : State) : s.setPC s.pc = s := rfl

/-- A transfer overwrites the fetch's advance. -/
theorem advance_setPC (s : State) (a : Word) : s.advance.setPC a = s.setPC a := rfl

/-- A fetch that completes leaves room for the advance by 2. -/
theorem advance_pc_toNat {s : State} (h : s.pc.toNat ≤ 0xFFE) : s.advance.pc.toNat = s.pc.toNat + 2 :=
  BitVec.toNat_add_of_lt (Nat.lt_of_le_of_lt (Nat.add_le_add_right h 2) (by decide))

/-! ## A step that fetches an encoded instruction -/

theorem step_of_fetch_encode {s : State} {i : Instr} (hwait : s.wait = none)
    (hfetch : s.fetch s.pc.toNat = .ok (encode i)) (wf : i.wellFormed = true) : step s = exec i s.advance :=
  (step_of_fetch hwait hfetch).trans (execute_of_decodeWord _ (decodeWord_encode i wf))

/-- Two zero bytes are the word 0000. -/
theorem fetch_of_zero_bytes {s : State} {a : Nat} (ha : a ≤ 0xFFE) (high : s.memGet a = 0)
    (low : s.memGet (a + 1) = 0) : s.fetch a = .ok (encode .nop) := by
  rw [fetch_eq, if_neg (Nat.not_lt.2 ha), high, low]
  rfl

/-! ## The obligations of 40_flow.md -/

/-- Settles O21: two zero bytes are fetched as 0000, whose meaning keeps the advanced state. -/
theorem nopOnlyAdvancesPC : Obligations.NopOnlyAdvancesPC := by
  refine ⟨fun _ => rfl, fun s hwait hpc high low => ⟨s.advance, ?_, advance_pc_toNat hpc, onlyChanges_setPC s _⟩⟩
  exact step_of_fetch_encode hwait (fetch_of_zero_bytes hpc high low) rfl

/-- Settles O22: a pop moves SP alone, and the entry at the new SP goes into PC. -/
theorem returnPopsThePC : Obligations.ReturnPopsThePC := by
  refine fun s => ⟨fun empty => execRet_of_sp_zero s (by omega), fun held => ?_⟩
  have returns : exec .ret s = .next _ := execRet_of_sp_pos s held
  have top : ∀ j : Fin 16, j.val = s.sp.val - 1 → s.stack[s.sp.val - 1] = s.stack[j.val] := fun j hj => by simp only [hj]
  exact ⟨_, returns, rfl, top, fun _ => rfl, (exec_onlyChanges s .ret).of_next returns⟩

/-- Settles O23: the address is zero-extended, so its number is kept. -/
theorem jumpPutsTheAddressInPC : Obligations.JumpPutsTheAddressInPC :=
  fun nnn s => ⟨_, rfl, extendAddr_toNat nnn, onlyChanges_setPC s _⟩

/-- Settles O24: a push stores at the old SP alone, and the address goes into PC. -/
theorem callPushesThePC : Obligations.CallPushesThePC := by
  refine fun nnn s => ⟨fun full => execCall_of_sp_full nnn s (by omega), fun room => ?_⟩
  have calls : exec (.call nnn) s = .next _ := execCall_of_sp_lt nnn s room
  have pushed : ∀ j : Fin 16, (s.stack.set s.sp.val s.pc)[j.val] = if j.val = s.sp.val then s.pc else s.stack[j.val] :=
    fun j => by simp only [Vector.getElem_set, eq_comm]
  exact ⟨_, calls, rfl, extendAddr_toNat nnn, pushed, (exec_onlyChanges s (.call nnn)).of_next calls⟩

/-- Settles O25: the sum of 12 and 8 bits fits the 16 bits of PC. -/
theorem jumpV0AddsWithoutReduction : Obligations.JumpV0AddsWithoutReduction :=
  fun nnn s => ⟨_, rfl, offsetTarget_toNat nnn _, onlyChanges_setPC s _⟩

/-- Settles O26, from O24 and O22: the call leaves PC on top of the stack and SP one up, and the return takes both back. -/
theorem returnUndoesCall : Obligations.ReturnUndoesCall := by
  intro nnn s room
  obtain ⟨t, calls, spUp, -, pushed, -⟩ := (callPushesThePC nnn s).2 room
  refine ⟨t, calls, fun u sameSP sameStack => ?_⟩
  have hsp : u.sp.val = s.sp.val + 1 := sameSP ▸ spUp
  obtain ⟨w, returns, spDown, top, -, -⟩ := (returnPopsThePC u).2 (by omega)
  refine ⟨w, returns, ?_, Fin.ext (by omega)⟩
  calc w.pc = u.stack[s.sp.val] := top ⟨s.sp.val, room⟩ (by simp only [hsp, Nat.add_sub_cancel])
    _ = t.stack[s.sp.val] := sameStack ⟨s.sp.val, room⟩
    _ = s.pc := (pushed ⟨s.sp.val, room⟩).trans (if_pos rfl)

/-- Settles O57: the step fetches the self-jump, which puts PC's own value back over the advance. -/
theorem endOfRunIsAFixedPoint : Obligations.EndOfRunIsAFixedPoint := by
  rintro s ⟨hwait, nnn, hpc, hfetch⟩
  calc step s = .next (s.advance.setPC (extendAddr nnn)) := step_of_fetch_encode hwait hfetch rfl
    _ = .next (s.setPC s.pc) := by rw [advance_setPC, hpc]
    _ = .next s := by rw [setPC_pc_self]

end Sys2Proof.Machine
end

section
/-! PROOF. The conditional skips on registers: 3xkk, 4xkk, 5xy0, 9xy0 (spec/41_skip.md R110 to R113). -/

namespace Sys2Proof.Machine

/-! ## PC after a skip on a comparison of two bytes -/

theorem skipIf_beq_pc (s : State) (a b : Byte) :
    (s.skipIf (a == b)).pc = if a.toNat = b.toNat then s.pc + 2 else s.pc := by
  simp only [skipIf_pc, beq_iff_eq, BitVec.toNat_inj]

theorem skipIf_bne_pc (s : State) (a b : Byte) :
    (s.skipIf (a != b)).pc = if a.toNat = b.toNat then s.pc else s.pc + 2 := by
  simp only [skipIf_pc, bne_iff_ne, BitVec.toNat_inj, ite_not]

/-! ## The obligations of 41_skip.md -/

/-- Settles O27: both are the shared skip, on V[x] and the byte kk. -/
theorem byteSkipsCompareWithTheImmediate : Obligations.ByteSkipsCompareWithTheImmediate :=
  fun x kk s => ⟨⟨_, rfl, onlyChanges_skipIf s _, skipIf_beq_pc s (s.getV x) kk⟩,
    ⟨_, rfl, onlyChanges_skipIf s _, skipIf_bne_pc s (s.getV x) kk⟩⟩

/-- Settles O28: both are the shared skip, on V[x] and V[y]. -/
theorem registerSkipsCompareTheRegisters : Obligations.RegisterSkipsCompareTheRegisters :=
  fun x y s => ⟨⟨_, rfl, onlyChanges_skipIf s _, skipIf_beq_pc s (s.getV x) (s.getV y)⟩,
    ⟨_, rfl, onlyChanges_skipIf s _, skipIf_bne_pc s (s.getV x) (s.getV y)⟩⟩

end Sys2Proof.Machine
end

section
/-! PROOF. Registers: loads, arithmetic, logic, shifts and the random byte (spec/42_alu.md R120 to R133). -/

namespace Sys2Proof.Machine

/-! ## A write of one register (R122 to R127), and a result with its flag (R120, D11) -/

section Write

variable (s : State) (x : RegIdx) (b : Byte)

theorem getV_setV_same : (s.setV x b).getV x = b := (getV_setV ..).trans (if_pos rfl)

theorem sameRegsBut_setV : SameRegsBut x s (s.setV x b) := fun _ hk => (getV_setV ..).trans (if_neg hk)

/-- A result that reads as `result` to V[x] and a flag that reads as `flag` to V[0xF], which the result reaches for no x. -/
theorem setResultThenFlag_writes {g : Bool} {result flag : Nat} (hresult : b.toNat = result)
    (hflag : (flagByte g).toNat = flag) : (x ≠ vf → ((s.setResultThenFlag x b g).getV x).toNat = result) ∧
      ((s.setResultThenFlag x b g).getV vf).toNat = flag ∧
      (∀ k, k ≠ x → k ≠ vf → (s.setResultThenFlag x b g).getV k = s.getV k) ∧
      OnlyChanges s (s.setResultThenFlag x b g) [.regs] := by
  refine ⟨fun hx => ?_, ?_, fun k hkx hkf => ?_, onlyChanges_setResultThenFlag s x b g⟩
  · rw [getV_setResultThenFlag, if_neg hx, if_pos rfl, hresult]
  · rw [getV_setResultThenFlag, if_pos rfl, hflag]
  · rw [getV_setResultThenFlag, if_neg hkf, if_neg hkx]

end Write

/-! ## The flags as numbers (R121) -/

theorem flagByte_toNat (g : Bool) : (flagByte g).toNat = g.toNat := by cases g <;> rfl

theorem flagByte_decide_toNat (p : Prop) [Decidable p] : (flagByte (decide p)).toNat = if p then 1 else 0 := by
  rw [flagByte_toNat, Bool.toNat, Bool.cond_decide]

theorem flagByte_carryOut_toNat (a b : Byte) : (flagByte (carryOut a b)).toNat = if a.toNat + b.toNat > 255 then 1 else 0 :=
  flagByte_decide_toNat _

theorem flagByte_noBorrow_toNat (a b : Byte) : (flagByte (noBorrow a b)).toNat = if a.toNat ≥ b.toNat then 1 else 0 :=
  flagByte_decide_toNat _

/-- Bit 0 is the remainder by 2. -/
theorem flagByte_bitOutRight_toNat (a : Byte) : (flagByte (bitOutRight a)).toNat = a.toNat % 2 := by
  rw [flagByte_toNat, bitOutRight, BitVec.getLsbD, Nat.toNat_testBit, Nat.pow_zero, Nat.div_one]

/-- Bit 7 is the top bit, so it is the whole quotient by 128. -/
theorem flagByte_bitOutLeft_toNat (a : Byte) : (flagByte (bitOutLeft a)).toNat = a.toNat / 128 := by
  have := a.isLt
  rw [flagByte_toNat, bitOutLeft, BitVec.getLsbD, Nat.toNat_testBit, Nat.mod_eq_of_lt (by omega)]

/-! ## The results as numbers (R129 to R132) -/

theorem byte_sub_toNat (a b : Byte) : (a - b).toNat = (a.toNat + 256 - b.toNat) % 256 := by
  have := b.isLt
  rw [BitVec.toNat_sub]
  congr 1
  omega

theorem byte_shiftRight_one_toNat (a : Byte) : (a >>> 1).toNat = a.toNat / 2 := by
  rw [BitVec.toNat_ushiftRight, Nat.shiftRight_eq_div_pow, Nat.pow_one]

theorem byte_shiftLeft_one_toNat (a : Byte) : (a <<< 1).toNat = a.toNat * 2 % 256 := by
  rw [BitVec.toNat_shiftLeft, Nat.shiftLeft_eq, Nat.pow_one]

/-! ## The obligations of 42_alu.md -/

/-- Settles O29: each is one write of V[x], with kk, the sum or V[y]. -/
theorem loadsAndByteAddWriteOneRegister : Obligations.LoadsAndByteAddWriteOneRegister := by
  refine fun x y kk s => ⟨⟨_, rfl, getV_setV_same s x kk, sameRegsBut_setV s x kk, onlyChanges_setV s x kk⟩,
    ⟨_, rfl, ?sum, sameRegsBut_setV s x _, onlyChanges_setV s x _⟩,
    ⟨_, rfl, getV_setV_same s x _, sameRegsBut_setV s x _, onlyChanges_setV s x _⟩⟩
  case sum => rw [getV_setV_same, BitVec.toNat_add]

/-- Settles O30: each is one write of V[x], whose bits are those of the operation. -/
theorem logicIsBitwiseAndLeavesTheFlag : Obligations.LogicIsBitwiseAndLeavesTheFlag := by
  refine fun x y s => ⟨⟨_, rfl, sameRegsBut_setV s x _, onlyChanges_setV s x _, fun j => ?or⟩,
    ⟨_, rfl, sameRegsBut_setV s x _, onlyChanges_setV s x _, fun j => ?and⟩,
    ⟨_, rfl, sameRegsBut_setV s x _, onlyChanges_setV s x _, fun j => ?xor⟩⟩
  case or => rw [getV_setV_same, BitVec.getLsbD_or]
  case and => rw [getV_setV_same, BitVec.getLsbD_and]
  case xor => rw [getV_setV_same, BitVec.getLsbD_xor]

/-- Settles O31: the shared write of a result and its flag, with the sum and the carry. -/
theorem addSetsSumThenCarry : Obligations.AddSetsSumThenCarry := fun x _ s =>
  ⟨_, rfl, setResultThenFlag_writes s x _ (BitVec.toNat_add ..) (flagByte_carryOut_toNat ..)⟩

/-- Settles O32: the shared write of a result and its flag, with the difference and no-borrow; 8xy7 swaps the operands. -/
theorem subtractionsSetDifferenceThenNoBorrow : Obligations.SubtractionsSetDifferenceThenNoBorrow := fun x _ s =>
  ⟨⟨_, rfl, setResultThenFlag_writes s x _ (byte_sub_toNat ..) (flagByte_noBorrow_toNat ..)⟩,
    ⟨_, rfl, setResultThenFlag_writes s x _ (byte_sub_toNat ..) (flagByte_noBorrow_toNat ..)⟩⟩

/-- Settles O33: the shared write of a result and its flag, with V[x] shifted by one place and the bit moved out. -/
theorem shiftsMoveOneBitIntoTheFlag : Obligations.ShiftsMoveOneBitIntoTheFlag := fun x _ s =>
  ⟨⟨_, rfl, setResultThenFlag_writes s x _ (byte_shiftRight_one_toNat _) (flagByte_bitOutRight_toNat _)⟩,
    ⟨_, rfl, setResultThenFlag_writes s x _ (byte_shiftLeft_one_toNat _) (flagByte_bitOutLeft_toNat _)⟩⟩

/-- Settles O34: one write of V[x] with the masked byte, and one draw counted. -/
theorem randomIsMaskedByTheImmediate : Obligations.RandomIsMaskedByTheImmediate := by
  intro x kk s
  have written : (rndWith (Config.randByte s.draws) x kk s).getV x = Config.randByte s.draws &&& kk := getV_setV_same s x _
  refine ⟨_, rfl, written, ?_, ?_, rfl, sameRegsBut_setV s x _, exec_onlyChanges s (.rnd x kk)⟩
  · rw [written, BitVec.and_assoc, BitVec.and_not_self]
    exact BitVec.and_zero
  · rw [written, BitVec.toNat_and]
    exact Nat.and_le_right

end Sys2Proof.Machine
end

section
/-! PROOF. The index register and the memory transfers: Annn, Fx1E, Fx29, Fx33, Fx55, Fx65 (spec/43_index_memory.md R140 to
R145). -/

namespace Sys2Proof.Machine

/-! ## The values put into I, as numbers (R141, R142) -/

theorem indexSum_toNat (i : Word) (b : Byte) : (indexSum i b).toNat = (i.toNat + b.toNat) % 4096 := by
  rw [indexSum, BitVec.toNat_ofNat, Nat.mod_eq_of_lt (by omega)]

theorem glyphAddr_toNat (b : Byte) : (glyphAddr b).toNat = b.toNat * 5 := by
  have := b.isLt
  rw [glyphAddr, BitVec.toNat_ofNat, Nat.mod_eq_of_lt (by omega)]

/-! ## Fx1E for each value of FX1E_SETS_VF (D12) -/

section AddIndex

variable {s : State} (x : RegIdx)

theorem execAddI_of_fx1eSetsVF_false (h : s.cfg.fx1eSetsVF = false) :
    exec (.addI x) s = .next (s.setI (indexSum s.i (s.getV x))) := by
  show Host.Outcome.next (if s.cfg.fx1eSetsVF then _ else _) = _
  rw [h, if_neg Bool.false_ne_true]

theorem execAddI_of_fx1eSetsVF_true (h : s.cfg.fx1eSetsVF = true) :
    exec (.addI x) s = .next ((s.setI (indexSum s.i (s.getV x))).setFlag (indexOverflow s.i (s.getV x))) := by
  show Host.Outcome.next (if s.cfg.fx1eSetsVF then _ else _) = _
  rw [h, if_pos rfl]

end AddIndex

theorem flagByte_indexOverflow_toNat (i : Word) (b : Byte) :
    (flagByte (indexOverflow i b)).toNat = if i.toNat + b.toNat > 0xFFF then 1 else 0 := flagByte_decide_toNat _

/-! ## The decimal digits of a byte (R143) -/

@[simp] theorem decimalDigits_length (b : Byte) : (decimalDigits b).length = 3 := rfl

/-- A byte is below 1000, so each digit is the number it stands for. -/
theorem decimalDigits_toNat (b : Byte) : ((decimalDigits b).getD 0 0).toNat = b.toNat / 100 ∧
    ((decimalDigits b).getD 1 0).toNat = b.toNat / 10 % 10 ∧ ((decimalDigits b).getD 2 0).toNat = b.toNat % 10 := by
  have := b.isLt
  exact ⟨Nat.mod_eq_of_lt (by omega), Nat.mod_eq_of_lt (by omega), Nat.mod_eq_of_lt (by omega)⟩

/-! ## Memory after a store of bytes -/

section Stored

variable {s : State} {bs : List Byte} {a : Nat} (wf : s.MemWf) (inside : a + bs.length ≤ 4096)

include wf inside

theorem memGet_storeBytes_at {j : Nat} (h : j < bs.length) : (s.storeBytes a bs).memGet (a + j) = bs.getD j 0 := by
  rw [memGet_storeBytes bs s a _ inside wf, if_pos (by omega), Nat.add_sub_cancel_left]

theorem memGet_storeBytes_outside {c : Nat} (h : c < a ∨ a + bs.length ≤ c) :
    (s.storeBytes a bs).memGet c = s.memGet c := by
  rw [memGet_storeBytes bs s a c inside wf, if_neg (by omega)]

end Stored

/-! ## The transfers, each in two cases by its highest address (R143 to R145) -/

section Transfers

variable (x : RegIdx) (s : State)

theorem execLdB_of_gt (h : s.i.toNat + 2 > 0xFFF) : exec (.ldB x) s = .fault .outOfBounds := by
  show attempt (s.writeRange s.i.toNat (decimalDigits (s.getV x))) _ = _
  rw [writeRange_eq, decimalDigits_length, if_pos (by omega), attempt_error]

theorem execLdB_of_le (h : s.i.toNat + 2 ≤ 0xFFF) :
    exec (.ldB x) s = .next (s.storeBytes s.i.toNat (decimalDigits (s.getV x))) := by
  show attempt (s.writeRange s.i.toNat (decimalDigits (s.getV x))) _ = _
  rw [writeRange_eq, decimalDigits_length, if_neg (by omega), attempt_ok]

theorem execStRegs_of_gt (h : s.i.toNat + x.val > 0xFFF) : exec (.stRegs x) s = .fault .outOfBounds := by
  show attempt (s.writeRange s.i.toNat (s.regsThrough x)) _ = _
  rw [writeRange_eq, regsThrough_length, if_pos (by omega), attempt_error]

theorem execLdRegs_of_gt (h : s.i.toNat + x.val > 0xFFF) : exec (.ldRegs x) s = .fault .outOfBounds := by
  show attempt (s.readRange s.i.toNat (x.val + 1)) _ = _
  rw [readRange_eq, if_pos (by omega), attempt_error]

theorem execLdRegs_of_le (h : s.i.toNat + x.val ≤ 0xFFF) :
    exec (.ldRegs x) s = .next (s.setRegsFrom 0 (s.bytesAt s.i.toNat (x.val + 1))) := by
  show attempt (s.readRange s.i.toNat (x.val + 1)) _ = _
  rw [readRange_eq, if_neg (by omega), attempt_ok]

end Transfers

/-! ## Registers after a load of the bytes from an address -/

theorem getV_setRegsFrom_bytesAt (s : State) (a : Nat) (x k : RegIdx) :
    (s.setRegsFrom 0 (s.bytesAt a (x.val + 1))).getV k = if k ≤ x then s.memGet (a + k.val) else s.getV k := by
  rw [getV_setRegsFrom _ s 0 k (by rw [bytesAt_length]; omega), bytesAt_length]
  by_cases h : k ≤ x
  · have hk : k.val < x.val + 1 := Nat.lt_succ_of_le h
    rw [if_pos h, if_pos (by omega), Nat.sub_zero, bytesAt_getD s a _ _ hk]
  · have hk : ¬ k.val ≤ x.val := h
    rw [if_neg h, if_neg (by omega)]

/-! ## The obligations of 43_index_memory.md -/

/-- Settles O35: the address is zero-extended, so its number is kept. -/
theorem loadIndexPutsTheAddressInI : Obligations.LoadIndexPutsTheAddressInI :=
  fun nnn s => ⟨_, rfl, extendAddr_toNat nnn, onlyChanges_setI s _⟩

/-- Settles O36: the reduced sum goes into I for both values of FX1E_SETS_VF, and the flag is written for one of them. -/
theorem addIndexWrapsAt4096 : Obligations.AddIndexWrapsAt4096 := by
  intro x s
  cases hcfg : s.cfg.fx1eSetsVF with
  | false =>
    have adds := execAddI_of_fx1eSetsVF_false x hcfg
    exact ⟨_, adds, indexSum_toNat .., fun _ => setI_getV s _, nofun, (exec_onlyChanges s (.addI x)).of_next adds⟩
  | true =>
    have adds := execAddI_of_fx1eSetsVF_true x hcfg
    refine ⟨_, adds, indexSum_toNat .., nofun, fun _ => ⟨?flag, ?others⟩, (exec_onlyChanges s (.addI x)).of_next adds⟩
    case flag => rw [getV_setFlag, if_pos rfl, flagByte_indexOverflow_toNat]
    case others => exact sameRegsBut_setV (s.setI _) vf _

/-- Settles O37: five times a byte fits the 16 bits of I. -/
theorem glyphAddressIsFiveTimesTheDigit : Obligations.GlyphAddressIsFiveTimesTheDigit :=
  fun x s => ⟨_, rfl, glyphAddr_toNat (s.getV x), onlyChanges_setI s _⟩

/-- Settles O38: the range of three bytes is checked as a whole, and its bytes are the digits. -/
theorem decimalStoreWritesThreeDigits : Obligations.DecimalStoreWritesThreeDigits := by
  refine fun x s => ⟨execLdB_of_gt x s, fun inside => ?_⟩
  have stores := execLdB_of_le x s inside
  refine ⟨_, stores, (exec_onlyChanges s (.ldB x)).of_next stores, fun wf => ?_⟩
  have fits : s.i.toNat + (decimalDigits (s.getV x)).length ≤ 4096 := Nat.succ_le_succ inside
  have stored {j : Nat} (h : j < 3) := memGet_storeBytes_at wf fits h
  obtain ⟨hundreds, tens, ones⟩ := decimalDigits_toNat (s.getV x)
  refine ⟨?_, ?_, ?_, fun a ha => memGet_storeBytes_outside wf fits ha⟩
  · exact (congrArg BitVec.toNat (stored (j := 0) (by decide))).trans hundreds
  · rw [stored (by decide), tens]
  · rw [stored (by decide), ones]

/-- Settles O39: the range of x + 1 bytes is checked as a whole, and its byte k is V[k]. -/
theorem registerStoreWritesV0ThroughVx : Obligations.RegisterStoreWritesV0ThroughVx := by
  refine fun x s => ⟨execStRegs_of_gt x s, fun inside => ?_⟩
  have stores := execStRegs_of_le x s inside
  refine ⟨_, stores, (exec_onlyChanges s (.stRegs x)).of_next stores, fun wf => ?_⟩
  have hlen := regsThrough_length s x
  have fits : s.i.toNat + (s.regsThrough x).length ≤ 4096 := by omega
  refine ⟨fun k hk => ?_, fun a ha => memGet_storeBytes_outside wf fits (by omega)⟩
  have hlt : k.val < (s.regsThrough x).length := hlen ▸ Nat.lt_succ_of_le hk
  rw [memGet_storeBytes_at wf fits hlt, regsThrough_getD s x k hk]

/-- Settles O40: the range of x + 1 bytes is checked as a whole, and its byte k goes into V[k]. -/
theorem registerLoadReadsV0ThroughVx : Obligations.RegisterLoadReadsV0ThroughVx := by
  refine fun x s => ⟨execLdRegs_of_gt x s, fun inside => ?_⟩
  have loads := execLdRegs_of_le x s inside
  have loaded := getV_setRegsFrom_bytesAt s s.i.toNat x
  exact ⟨_, loads, (exec_onlyChanges s (.ldRegs x)).of_next loads, fun k hk => (loaded k).trans (if_pos hk),
    fun k hk => (loaded k).trans (if_neg (Fin.not_le.2 hk))⟩

/-- Settles O41, from O39 and O40: the store leaves I alone, so the load reads the bytes the store wrote. -/
theorem loadAfterStoreRestoresTheRegisters : Obligations.LoadAfterStoreRestoresTheRegisters := by
  intro x s wf inside
  obtain ⟨t, stores, ⟨-, same⟩, written⟩ := (registerStoreWritesV0ThroughVx x s).2 inside
  refine ⟨t, stores, fun u sameI sameMem => ?_⟩
  have hi : u.i = s.i := sameI.trans (same .index (by decide))
  obtain ⟨w, loads, -, loaded, kept⟩ := (registerLoadReadsV0ThroughVx x u).2 (hi ▸ inside)
  refine ⟨w, loads, fun k hk => ?_, kept⟩
  calc w.getV k = u.memGet (u.i.toNat + k.val) := loaded k hk
    _ = t.memGet (s.i.toNat + k.val) := by rw [sameMem, hi]
    _ = s.getV k := (written wf).1 k hk

end Sys2Proof.Machine
end

section
/-! PROOF. The display: 00E0 and Dxyn (spec/44_display.md R150 to R153). -/

namespace Sys2Proof.Machine

/-! ## The sprite's pixels (R151, R152) -/

section Sprite

variable {s t : State} {x y : RegIdx} {n : Nat}

theorem wrapColumn_eq_iff (m : Nat) (c : Column) : wrapColumn m = c ↔ m % 64 = c.val := Fin.ext_iff

theorem eq_wrapRow_iff (m : Nat) (r : Row) : r = wrapRow m ↔ m % 32 = r.val := Fin.ext_iff.trans eq_comm

/-- The pixels a sprite covers are those the plotter visits for the bytes at I. -/
theorem rowsCover_bytesAt_iff (c : Column) (r : Row) :
    rowsCover (startColumn (s.getV x)) (startRow (s.getV y)) (s.bytesAt s.i.toNat n) c r ↔ s.spriteCovers x y n c r := by
  simp only [rowsCover, rowCovers, wrapColumn_eq_iff, eq_wrapRow_iff, bytesAt_length]
  constructor
  · rintro ⟨j, hj, hrow, k, hk, hbit, hcol⟩
    rw [bytesAt_getD s _ n j hj] at hbit
    exact ⟨j, k, hj, hk, hbit, hcol, hrow⟩
  · rintro ⟨j, k, hj, hk, hbit, hcol, hrow⟩
    refine ⟨j, hj, hrow, k, hk, ?_, hcol⟩
    rw [bytesAt_getD s _ n j hj]
    exact hbit

/-- The covered pixels depend on V[x], V[y], I and memory alone. -/
theorem spriteCovers_congr (hx : t.getV x = s.getV x) (hy : t.getV y = s.getV y) (hi : t.i = s.i)
    (hmem : ∀ a, t.memGet a = s.memGet a) (c : Column) (r : Row) :
    t.spriteCovers x y n c r ↔ s.spriteCovers x y n c r := by
  simp only [State.spriteCovers, State.spriteBit, hx, hy, hi, hmem]

/-- Every 1 bit lies on some pixel, since both axes wrap. -/
theorem exists_spriteCovers_iff :
    (∃ c r, s.spriteCovers x y n c r) ↔ ∃ j k, j < n ∧ k < 8 ∧ s.spriteBit j k = true := by
  constructor
  · rintro ⟨c, r, j, k, hj, hk, hbit, -⟩
    exact ⟨j, k, hj, hk, hbit⟩
  · rintro ⟨j, k, hj, hk, hbit⟩
    exact ⟨wrapColumn _, wrapRow _, j, k, hj, hk, hbit, rfl, rfl⟩

end Sprite

/-! ## Dxyn in two cases by the sprite's highest address (R151) -/

section Draw

variable (x y : RegIdx) (n : Nat) (s : State)

/-- The canvas after the n sprite rows at I are plotted. -/
def State.plotSprite : Canvas :=
  Canvas.plotRows ⟨s.fb, false⟩ (startColumn (s.getV x)) (startRow (s.getV y)) (s.bytesAt s.i.toNat n)

theorem execDrw_of_beyond (h : n ≥ 1 ∧ s.i.toNat + n - 1 > 0xFFF) : exec (.drw x y n) s = .fault .outOfBounds := by
  show attempt (s.readRange s.i.toNat n) _ = _
  rw [readRange_eq, if_pos h, attempt_error]

theorem execDrw_of_inside (h : ¬ (n ≥ 1 ∧ s.i.toNat + n - 1 > 0xFFF)) :
    exec (.drw x y n) s = .next ((s.setFB (s.plotSprite x y n).fb).setFlag (s.plotSprite x y n).hit) := by
  show attempt (s.readRange s.i.toNat n) _ = _
  rw [readRange_eq, if_neg h, attempt_ok]
  rfl

/-- The plotter's rule for the sprite of a Dxyn: its at most 15 rows are on distinct screen rows. -/
theorem plotSprite_drawn (h : n ≤ 15) : Canvas.Drawn ⟨s.fb, false⟩ (s.plotSprite x y n) (s.spriteCovers x y n) :=
  (plotRows_drawn _ _ _ _ (by rw [bytesAt_length]; omega)).congr rowsCover_bytesAt_iff

end Draw

/-! ## The flag written last (R151) -/

theorem getV_vf_setFlag (s : State) (g : Bool) : (s.setFlag g).getV vf = flagByte g := getV_setV_same s vf _

/-! ## The blank screen in the host's view (R150, spec/60_exceptions.md R219) -/

theorem framebuffer_setFB_blankScreen (s : State) : (s.setFB blankScreen).framebuffer = List.replicate 2048 false := by
  simp [State.framebuffer, blankScreen]

/-! ## The obligations of 44_display.md -/

/-- Settles O45: the framebuffer is replaced by the blank one, which is off in each pixel and in the host's view. -/
theorem clearTurnsEveryPixelOff : Obligations.ClearTurnsEveryPixelOff :=
  fun s => ⟨_, rfl, pixel_blankScreen, framebuffer_setFB_blankScreen s, onlyChanges_setFB s _⟩

/-- Settles O46: the sprite's bytes are read as one range, and the plotter visits each covered pixel once. -/
theorem drawInvertsThePixelsUnderTheSprite : Obligations.DrawInvertsThePixelsUnderTheSprite := by
  refine fun x y n s hn => ⟨execDrw_of_beyond x y n s, fun inside => ?_⟩
  have draws := execDrw_of_inside x y n s inside
  obtain ⟨inverted, kept, hit_iff⟩ := plotSprite_drawn x y n s hn
  have collides : (s.plotSprite x y n).hit = true ↔ ∃ c r, s.spriteCovers x y n c r ∧ s.pixel c r = true :=
    hit_iff.trans (or_iff_right Bool.false_ne_true)
  refine ⟨_, draws, inverted, kept, fun on => ?_, fun off => ?_, sameRegsBut_setV (s.setFB _) vf _,
    (exec_onlyChanges s (.drw x y n)).of_next draws⟩
  · rw [getV_vf_setFlag, collides.2 on]
    rfl
  · rw [getV_vf_setFlag, Bool.eq_false_iff.2 fun hit => off (collides.1 hit)]
    rfl

/-- Settles O47, from O46 for each draw: the first leaves V[x], V[y], I and memory, so the second covers the same pixels and
inverts them back, and it finds on those that were off. -/
theorem drawingTwiceRestoresTheScreen : Obligations.DrawingTwiceRestoresTheScreen := by
  intro x y n s hn hx hy inside
  obtain ⟨t, draws, inverted, kept, -, -, sameRegs, -, same⟩ := (drawInvertsThePixelsUnderTheSprite x y n s hn).2 inside
  refine ⟨t, draws, fun pc => ?_⟩
  have hi : t.i = s.i := same .index (by decide)
  have covers := spriteCovers_congr (t := t.setPC pc) (n := n) (sameRegs x hx) (sameRegs y hy) hi (same .memory (by decide))
  obtain ⟨u, redraws, inverted', kept', hit, noHit, -, -⟩ :=
    (drawInvertsThePixelsUnderTheSprite x y n (t.setPC pc) hn).2 (by rw [setPC_i, hi]; exact inside)
  simp only [covers, setPC_pixel] at inverted' kept' hit noHit
  have foundOn : (∃ c r, s.spriteCovers x y n c r ∧ t.pixel c r = true) ↔
      ∃ c r, s.spriteCovers x y n c r ∧ s.pixel c r = false :=
    exists_congr fun c => exists_congr fun r => and_congr_right fun hc => by rw [inverted c r hc, Bool.not_eq_true']
  have flag : u.getV vf = 1 ↔ ∃ c r, s.spriteCovers x y n c r ∧ s.pixel c r = false := by
    rw [← foundOn]
    refine ⟨fun one => ?_, hit⟩
    by_contra none
    exact absurd (one.symm.trans (noHit none)) (by decide)
  refine ⟨u, redraws, fun c r => ?_, flag, fun clear => ?_⟩
  · by_cases hc : s.spriteCovers x y n c r
    · rw [inverted' c r hc, inverted c r hc, Bool.not_not]
    · rw [kept' c r hc, kept c r hc]
  · simp only [flag, clear, and_true]
    exact exists_spriteCovers_iff

end Sys2Proof.Machine
end

section
/-! PROOF. The keypad and the timers: Ex9E, ExA1, Fx0A, Fx07, Fx15, Fx18 (spec/45_keypad_timers.md R160 to R166). -/

namespace Sys2Proof.Machine

/-! ## The key a byte selects (R166, D21) -/

theorem selectedKey_val (b : Byte) : (selectedKey b).val = b.toNat % 16 := rfl

theorem eq_selectedKey {b : Byte} {k : KeyIdx} (h : k.val = b.toNat % 16) : k = selectedKey b :=
  Fin.ext (h.trans (selectedKey_val b).symm)

/-! ## PC after a skip on a negated condition (R161) -/

theorem skipIf_not_pc (s : State) (c : Bool) : (s.skipIf (!c)).pc = if c = true then s.pc else s.pc + 2 := by
  cases c <;> rfl

/-! ## The obligations of 45_keypad_timers.md -/

/-- Settles O48: both are the shared skip, on the selected key and on its negation. -/
theorem keySkipsTestTheSelectedKey : Obligations.KeySkipsTestTheSelectedKey := by
  intro x s k selects
  obtain rfl := eq_selectedKey selects
  exact ⟨⟨_, rfl, onlyChanges_skipIf s _, skipIf_pc s _⟩, ⟨_, rfl, onlyChanges_skipIf s _, skipIf_not_pc s _⟩⟩

/-- Settles O49: each is one write of one item, V[x] for the read and a timer for the other two. -/
theorem timerInstructionsCopyOneByte : Obligations.TimerInstructionsCopyOneByte :=
  fun x s => ⟨⟨_, rfl, getV_setV_same s x _, sameRegsBut_setV s x _, onlyChanges_setV s x _⟩,
    ⟨_, rfl, setDT_dt s _, onlyChanges_setDT s _⟩, ⟨_, rfl, setST_st s _, onlyChanges_setST s _⟩⟩

/-- Settles O50: arming is one write of WAIT. -/
theorem keyWaitIsOnlyArmed : Obligations.KeyWaitIsOnlyArmed :=
  fun _ s => ⟨_, rfl, setWait_wait s _, onlyChanges_setWait s _⟩

end Sys2Proof.Machine
end

section
/-! PROOF. The faults of a step (spec/60_exceptions.md R200 to R210), what a fault leaves the host (R205, R213), and the host's
ticks, keys and views (R215 to R219). -/

namespace Sys2Proof.Machine

/-! ## The faults of a decoded instruction (R200, R201 (b) to (d), R203, R204) -/

/-- The fault is one that R201, R203 or R204 gives the instruction in this state. -/
def State.Raises (s : State) (i : Instr) : Fault → Prop
  | .outOfBounds => i.reachesBeyond s
  | .stackOverflow => s.sp.val = 16 ∧ ∃ nnn, i = .call nnn
  | .stackUnderflow => s.sp.val = 0 ∧ i = .ret
  | .unknownOpcode _ | .loadError => False

theorem exec_of_reachesBeyond {s : State} {i : Instr} (h : i.reachesBeyond s) : exec i s = .fault .outOfBounds := by
  cases i with
  | drw x y n => exact execDrw_of_beyond x y n s h
  | ldB x => exact execLdB_of_gt x s h
  | stRegs x => exact execStRegs_of_gt x s h
  | ldRegs x => exact execLdRegs_of_gt x s h
  | _ => exact False.elim h

theorem exec_of_raises {s : State} {i : Instr} : ∀ {f : Fault}, s.Raises i f → exec i s = .fault f
  | .outOfBounds, beyond => exec_of_reachesBeyond beyond
  | .stackOverflow, ⟨full, nnn, isCall⟩ => isCall ▸ execCall_of_sp_full nnn s (by omega)
  | .stackUnderflow, ⟨empty, isRet⟩ => isRet ▸ execRet_of_sp_zero s (by omega)

/-- All an instruction can do: the six of R200 each make one check, and the other 29 none. -/
theorem exec_completes_or_raises (s : State) : ∀ i : Instr, (∃ t, exec i s = .next t) ∨ ∃ f, s.Raises i f
  | .ret => if h : 0 < s.sp.val then .inl ⟨_, execRet_of_sp_pos s h⟩ else .inr ⟨.stackUnderflow, by omega, rfl⟩
  | .call nnn =>
    if h : s.sp.val < 16 then .inl ⟨_, execCall_of_sp_lt nnn s h⟩ else .inr ⟨.stackOverflow, by omega, nnn, rfl⟩
  | .drw x y n =>
    if h : n ≥ 1 ∧ s.i.toNat + n - 1 > 0xFFF then .inr ⟨.outOfBounds, h⟩ else .inl ⟨_, execDrw_of_inside x y n s h⟩
  | .ldB x => if h : s.i.toNat + 2 > 0xFFF then .inr ⟨.outOfBounds, h⟩ else .inl ⟨_, execLdB_of_le x s (Nat.le_of_not_lt h)⟩
  | .stRegs x =>
    if h : s.i.toNat + x.val > 0xFFF then .inr ⟨.outOfBounds, h⟩ else .inl ⟨_, execStRegs_of_le x s (Nat.le_of_not_lt h)⟩
  | .ldRegs x =>
    if h : s.i.toNat + x.val > 0xFFF then .inr ⟨.outOfBounds, h⟩ else .inl ⟨_, execLdRegs_of_le x s (Nat.le_of_not_lt h)⟩
  | .nop | .cls | .jp _ | .jpV0 _ | .ldI _ | .ldF _ | .addI _ => .inl ⟨_, rfl⟩
  | .seKk _ _ | .sneKk _ _ | .seV _ _ | .sneV _ _ | .skp _ | .sknp _ => .inl ⟨_, rfl⟩
  | .ldKk _ _ | .addKk _ _ | .ldV _ _ | .orV _ _ | .andV _ _ | .xorV _ _ | .rnd _ _ => .inl ⟨_, rfl⟩
  | .addV _ _ | .subV _ _ | .shr _ _ | .subnV _ _ | .shl _ _ => .inl ⟨_, rfl⟩
  | .ldVxDT _ | .ldVxK _ | .ldDTVx _ | .ldSTVx _ => .inl ⟨_, rfl⟩

theorem canFault_of_reachesBeyond {s : State} {i : Instr} (h : i.reachesBeyond s) : i.canFault = true := by
  cases i with
  | drw | ldB | stRegs | ldRegs => rfl
  | _ => exact False.elim h

theorem canFault_of_raises {s : State} {i : Instr} : ∀ {f : Fault}, s.Raises i f → i.canFault = true
  | .outOfBounds, beyond => canFault_of_reachesBeyond beyond
  | .stackOverflow, ⟨_, _, isCall⟩ => isCall ▸ rfl
  | .stackUnderflow, ⟨_, isRet⟩ => isRet ▸ rfl

/-- The faults of an instruction depend on I and SP, which the fetch's advance leaves alone. -/
theorem raises_advance_iff (s : State) (i : Instr) (f : Fault) : s.advance.Raises i f ↔ s.Raises i f := by
  cases f with
  | outOfBounds => cases i <;> exact Iff.rfl
  | _ => exact Iff.rfl

/-! ## The faults of a step (R201 to R204, R210) -/

/-- The fault is one that R201 to R204 give the step, which is not waiting (R210). -/
def State.StepRaises (s : State) : Fault → Prop
  | .outOfBounds => s.wait = none ∧ (s.pc.toNat > 0xFFE ∨
      ∃ op i, s.fetch s.pc.toNat = .ok op ∧ decodeWord op = some i ∧ i.reachesBeyond s)
  | .unknownOpcode op => s.wait = none ∧ s.fetch s.pc.toNat = .ok op ∧ decodeWord op = none
  | .stackOverflow =>
    s.wait = none ∧ s.sp.val = 16 ∧ ∃ op nnn, s.fetch s.pc.toNat = .ok op ∧ decodeWord op = some (.call nnn)
  | .stackUnderflow => s.wait = none ∧ s.sp.val = 0 ∧ ∃ op, s.fetch s.pc.toNat = .ok op ∧ decodeWord op = some .ret
  | .loadError => False

theorem execute_of_illegal {op : Word} (s : State) (h : decodeWord op = none) :
    execute op s = .fault (.unknownOpcode op) := by
  rw [execute, h]
  rfl

section Fetched

variable {s : State} {op : Word} {i : Instr}

theorem step_of_decode (hwait : s.wait = none) (hfetch : s.fetch s.pc.toNat = .ok op) (hdecode : decodeWord op = some i) :
    step s = exec i s.advance :=
  (step_of_fetch hwait hfetch).trans (execute_of_decodeWord _ hdecode)

variable {f : Fault} (hwait : s.wait = none) (hfetch : s.fetch s.pc.toNat = .ok op) (hdecode : decodeWord op = some i)

include hwait hfetch hdecode

theorem step_of_decode_of_raises (h : s.Raises i f) : step s = .fault f :=
  (step_of_decode hwait hfetch hdecode).trans (exec_of_raises ((raises_advance_iff s i f).2 h))

theorem stepRaises_of_raises (h : s.Raises i f) : s.StepRaises f := by
  cases f with
  | outOfBounds => exact ⟨hwait, .inr ⟨op, i, hfetch, hdecode, h⟩⟩
  | stackOverflow =>
    obtain ⟨full, nnn, rfl⟩ := h
    exact ⟨hwait, full, op, nnn, hfetch, hdecode⟩
  | stackUnderflow =>
    obtain ⟨empty, rfl⟩ := h
    exact ⟨hwait, empty, op, hfetch, hdecode⟩
  | unknownOpcode | loadError => exact False.elim h

end Fetched

theorem step_of_stepRaises {s : State} : ∀ {f : Fault}, s.StepRaises f → step s = .fault f
  | .outOfBounds, ⟨hwait, .inl hpc⟩ => step_of_pc_gt hwait hpc
  | .outOfBounds, ⟨hwait, .inr ⟨_, _, hfetch, hdecode, beyond⟩⟩ => step_of_decode_of_raises hwait hfetch hdecode beyond
  | .unknownOpcode _, ⟨hwait, hfetch, illegal⟩ => (step_of_fetch hwait hfetch).trans (execute_of_illegal _ illegal)
  | .stackOverflow, ⟨hwait, full, _, nnn, hfetch, hdecode⟩ =>
    step_of_decode_of_raises hwait hfetch hdecode ⟨full, nnn, rfl⟩
  | .stackUnderflow, ⟨hwait, empty, _, hfetch, hdecode⟩ => step_of_decode_of_raises hwait hfetch hdecode ⟨empty, rfl⟩

/-- All a step can do: poll, fail to fetch, fetch an illegal word, or run an instruction. -/
theorem step_completes_or_raises (s : State) : (∃ t, step s = .next t) ∨ ∃ f, s.StepRaises f := by
  cases hwait : s.wait with
  | some r => exact .inl ⟨_, step_of_wait hwait⟩
  | none =>
    by_cases hpc : s.pc.toNat > 0xFFE
    · exact .inr ⟨.outOfBounds, hwait, .inl hpc⟩
    have hfetch : s.fetch s.pc.toNat = .ok (s.memGet s.pc.toNat ++ s.memGet (s.pc.toNat + 1)) := if_neg hpc
    cases hdecode : decodeWord (s.memGet s.pc.toNat ++ s.memGet (s.pc.toNat + 1)) with
    | none => exact .inr ⟨.unknownOpcode _, hwait, hfetch, hdecode⟩
    | some i =>
      obtain ⟨t, completes⟩ | ⟨f, raises⟩ := exec_completes_or_raises s.advance i
      · exact .inl ⟨t, (step_of_decode hwait hfetch hdecode).trans completes⟩
      · exact .inr ⟨f, stepRaises_of_raises hwait hfetch hdecode ((raises_advance_iff s i f).1 raises)⟩

theorem step_eq_fault_iff (s : State) (f : Fault) : step s = .fault f ↔ s.StepRaises f := by
  refine ⟨fun faults => ?_, step_of_stepRaises⟩
  obtain ⟨t, completes⟩ | ⟨g, raises⟩ := step_completes_or_raises s
  · cases completes.symm.trans faults
  · cases (step_of_stepRaises raises).symm.trans faults
    exact raises

theorem step_ne_refused (s : State) (q : Refusal) : step s ≠ .refused q := by
  intro refused
  obtain ⟨t, completes⟩ | ⟨f, raises⟩ := step_completes_or_raises s
  · cases completes.symm.trans refused
  · cases (step_of_stepRaises raises).symm.trans refused

/-! ## A faulting step in its host's hands (R205, R213) -/

theorem applyLive_fetchAndExecute_of_fault {s : State} {f : Fault} (h : step s = .fault f) :
    HostOp.fetchAndExecute.applyLive s = .next (.faulted s.cfg s.draws, .error f) := by
  rw [HostOp.applyLive, h]

theorem apply_faulted_of_ne_reset (cfg : Config) (draws : Nat) {op : HostOp} (h : op ≠ .reset) :
    (Session.faulted cfg draws).apply op = .refused .undefinedAfterFault := by
  cases op with
  | reset => exact absurd rfl h
  | load | fetchAndExecute | tickTimers | setKey | framebuffer | isSounding => rfl

/-! ## Ticks (R215, R216) -/

theorem tickDown_toNat (b : Byte) : (tickDown b).toNat = b.toNat - 1 := by
  rw [tickDown]
  split
  next pos => exact BitVec.toNat_sub_of_le pos
  next => omega

@[simp] theorem tickTimers_dt (s : State) : s.tickTimers.dt = tickDown s.dt := rfl
@[simp] theorem tickTimers_st (s : State) : s.tickTimers.st = tickDown s.st := rfl

theorem onlyChanges_tickTimers (s : State) : OnlyChanges s s.tickTimers [.delayTimer, .soundTimer] :=
  (onlyChanges_setDT s _).trans (onlyChanges_setST _ _)

theorem OnlyChanges.mono {s t : State} {parts qs : List Part} (h : OnlyChanges s t parts) (sub : parts ⊆ qs) :
    OnlyChanges s t qs := by
  obtain ⟨hcfg, same⟩ := h
  exact ⟨hcfg, fun p hp => same p fun hmem => hp (sub hmem)⟩

/-- What one round leaves alone, any number of rounds leaves alone. -/
theorem onlyChanges_iterate {f : State → State} {parts : List Part} (h : ∀ s, OnlyChanges s (f s) parts) (s : State)
    (k : Nat) : OnlyChanges s (f^[k] s) parts := by
  induction k with
  | zero => exact .refl s parts
  | succ k ih =>
    rw [Function.iterate_succ_apply']
    exact (ih.trans (h _)).mono (List.append_subset.2 ⟨List.Subset.refl _, List.Subset.refl _⟩)

theorem tickTimers_iterate_toNat (s : State) (k : Nat) :
    (State.tickTimers^[k] s).dt.toNat = s.dt.toNat - k ∧ (State.tickTimers^[k] s).st.toNat = s.st.toNat - k := by
  induction k with
  | zero => exact ⟨rfl, rfl⟩
  | succ k ih =>
    obtain ⟨hdt, hst⟩ := ih
    rw [Function.iterate_succ_apply', tickTimers_dt, tickTimers_st, tickDown_toNat, tickDown_toNat, hdt, hst]
    exact ⟨Nat.sub_sub .., Nat.sub_sub ..⟩

/-! ## Keys and views (R217 to R219) -/

@[simp] theorem keyDown_setKey (s : State) (k q : KeyIdx) (p : Bool) :
    (s.setKey k p).keyDown q = if q = k then p else s.keyDown q := by
  simp only [State.keyDown, setKey_key, Vector.getElem_set, Fin.ext_iff, eq_comm]

theorem onlyChanges_setKey (s : State) (k : KeyIdx) (p : Bool) : OnlyChanges s (s.setKey k p) [.keys] :=
  onlyChanges_of_fields (keys := .inl (.head _))

/-- The host's view is the rows one after the other. -/
theorem framebuffer_eq_flatten (s : State) : s.framebuffer = s.fb.flatten.toList := by
  simp [State.framebuffer, Vector.flatten, Vector.toList, List.flatMap, Function.comp_def]

theorem framebuffer_length (s : State) : s.framebuffer.length = 2048 := by
  rw [framebuffer_eq_flatten, Vector.length_toList]

/-- Pixel (c, r) is number r * 64 + c (spec/10_state.md R22). -/
theorem framebuffer_getElem? (s : State) (c : Column) (r : Row) :
    s.framebuffer[r.val * 64 + c.val]? = some (s.pixel c r) := by
  have inside : r.val * 64 + c.val < 32 * 64 := by omega
  have row : (r.val * 64 + c.val) / 64 = r.val := by omega
  have column : (r.val * 64 + c.val) % 64 = c.val := by omega
  rw [framebuffer_eq_flatten, Vector.getElem?_toList, Vector.getElem?_eq_getElem inside, Vector.getElem_flatten]
  simp only [row, column]
  rfl

theorem isSounding_iff (s : State) : s.isSounding = true ↔ s.st.toNat > 0 := decide_eq_true_iff

/-! ## The obligations of 60_exceptions.md -/

/-- Settles O10: each listed case raises its fault, and where none of them holds the step completes. -/
theorem stepFaultsExactlyWhereTheSpecSays : Obligations.StepFaultsExactlyWhereTheSpecSays := fun s =>
  ⟨step_eq_fault_iff s .outOfBounds, fun op => step_eq_fault_iff s (.unknownOpcode op), step_eq_fault_iff s .stackOverflow,
    step_eq_fault_iff s .stackUnderflow, (step_eq_fault_iff s .loadError).1, step_ne_refused s⟩

/-- Settles O51, by induction on the number of ticks, each taking one off by truncated subtraction. -/
theorem ticksCountTheTimersDown : Obligations.TicksCountTheTimersDown := by
  refine fun s => ⟨rfl, fun k => ?_⟩
  obtain ⟨hdt, hst⟩ := tickTimers_iterate_toNat s k
  exact ⟨hdt, hst, onlyChanges_iterate onlyChanges_tickTimers s k⟩

/-- Settles O11: an instruction that does not complete raises a fault, and one of the 29 raises none. -/
theorem twentyNineInstructionsAlwaysComplete : Obligations.TwentyNineInstructionsAlwaysComplete := by
  refine fun i s cannot => (exec_completes_or_raises s i).resolve_right ?_
  rintro ⟨f, raises⟩
  exact Bool.false_ne_true (cannot.symm.trans (canFault_of_raises raises))

/-- Settles O54: one latch is written, and WAIT is no part of the keypad. -/
theorem setKeySetsOneLatch : Obligations.SetKeySetsOneLatch := fun s k pressed =>
  ⟨_, rfl, (keyDown_setKey ..).trans (if_pos rfl), fun _ hq => (keyDown_setKey ..).trans (if_neg hq),
    onlyChanges_setKey s k pressed⟩

/-- Settles O55: the view is the framebuffer's rows laid end to end, and ST one tick after 1 is 0. -/
theorem hostViewsReadTheScreenAndTheSound : Obligations.HostViewsReadTheScreenAndTheSound := by
  refine fun s => ⟨⟨_, rfl, framebuffer_length s, framebuffer_getElem? s⟩, ⟨_, rfl, isSounding_iff s⟩, fun one => ⟨?_, ?_⟩⟩
  · exact (isSounding_iff s).2 (by omega)
  · rw [Bool.eq_false_iff, Ne, isSounding_iff, tickTimers_st, tickDown_toNat, one]
    decide

/-- Settles O56: the session the fault leaves holds no state, and answers reset alone. -/
theorem onlyResetIsDefinedAfterAFault : Obligations.OnlyResetIsDefinedAfterAFault :=
  fun s _ faults => ⟨_, applyLive_fetchAndExecute_of_fault faults, rfl, fun _ => apply_faulted_of_ne_reset s.cfg s.draws⟩

end Sys2Proof.Machine
end

section
/-! PROOF. Reset, load and the boot sequence (spec/70_reset_and_hazards.md R240 to R245). -/

namespace Sys2Proof.Machine

/-! ## The reset contents of memory (spec/10_state.md R27) -/

theorem resetByte_font (font : Font) (a : Fin 80) : resetByte font a.val = font[a.val] := by
  rw [resetByte, Vector.getElem?_eq_getElem a.isLt, Option.getD_some]

theorem resetByte_of_ge (font : Font) {a : Nat} (h : 80 ≤ a) : resetByte font a = 0 := by
  rw [resetByte, Vector.getElem?_eq_none h, Option.getD_none]

/-! ## The items of the reset state (R240) -/

section PowerOn

variable (cfg : Config) (draws : Nat)

@[simp] theorem powerOn_pc_toNat : (State.powerOn cfg draws).pc.toNat = 0x200 := rfl

@[simp] theorem powerOn_getV (k : RegIdx) : (State.powerOn cfg draws).getV k = 0 := Vector.getElem_replicate _

@[simp] theorem powerOn_stack (j : Fin 16) : (State.powerOn cfg draws).stack[j.val] = 0 := Vector.getElem_replicate _

@[simp] theorem powerOn_pixel (c : Column) (r : Row) : (State.powerOn cfg draws).pixel c r = false :=
  pixel_blankScreen c r

@[simp] theorem powerOn_keyDown (k : KeyIdx) : (State.powerOn cfg draws).keyDown k = false := Vector.getElem_replicate _

theorem powerOn_memGet_font (a : Fin 80) : (State.powerOn cfg draws).memGet a.val = cfg.font[a.val] :=
  resetByte_font cfg.font a

theorem powerOn_memGet_of_ge {a : Nat} (h : 80 ≤ a) : (State.powerOn cfg draws).memGet a = 0 :=
  resetByte_of_ge cfg.font h

theorem powerOn_memWf : (State.powerOn cfg draws).MemWf := (powerOn_inv cfg draws).mem_wf

end PowerOn

/-! ## Load in two cases by the image's length (R243) -/

section Load

variable (s : State) {rom : List Byte}

theorem applyLive_load_of_gt (h : rom.length > 3584) :
    (HostOp.load rom).applyLive s = .next (.live s, .error .loadError) := by
  rw [HostOp.applyLive, State.hostLoad, if_pos h]
  rfl

theorem applyLive_load_of_le (h : rom.length ≤ 3584) :
    (HostOp.load rom).applyLive s = .next (.live (s.storeBytes 0x200 rom), .ok) := by
  rw [HostOp.applyLive, State.hostLoad, if_neg (Nat.not_lt.2 h)]
  rfl

end Load

/-! ## Sessions -/

/-- A live machine and one that has faulted reset alike (R242). -/
theorem apply_reset (x : Session) : ∃ cfg draws, x.apply .reset = .next (.live (State.powerOn cfg draws), .ok) := by
  cases x with
  | live s => exact ⟨s.cfg, s.draws, rfl⟩
  | faulted cfg draws => exact ⟨cfg, draws, rfl⟩

theorem run_cons {op : HostOp} {ops : List HostOp} {x y z : Session} {r : Reply} {rs : List Reply}
    (first : x.apply op = .next (y, r)) (rest : Session.run ops y = .next (z, rs)) :
    Session.run (op :: ops) x = .next (z, r :: rs) := by
  simp only [Session.run, first, rest]

/-! ## The obligations of 70_reset_and_hazards.md -/

/-- Settles O16: both sessions reset to the power-on state of their configuration, item by item. -/
theorem resetSetsEveryItem : Obligations.ResetSetsEveryItem := fun s =>
  ⟨State.powerOn s.cfg s.draws, rfl, rfl, powerOn_getV _ _, rfl, powerOn_pc_toNat _ _, rfl, powerOn_stack _ _,
    powerOn_memGet_font _ _, fun _ h => powerOn_memGet_of_ge _ _ h, powerOn_pixel _ _, powerOn_keyDown _ _, rfl, rfl, rfl⟩

/-- Settles O52: an image that is not refused ends at 0xFFF, so the canonical memory reads back each byte stored. -/
theorem loadCopiesTheImageOrRefusesIt : Obligations.LoadCopiesTheImageOrRefusesIt := by
  refine fun s rom => ⟨applyLive_load_of_gt s, fun fits => ?_⟩
  have inside : 0x200 + rom.length ≤ 4096 := by omega
  exact ⟨_, applyLive_load_of_le s fits, onlyChanges_memory (storeBytes_fields rom s 0x200), fun wf =>
    ⟨fun _ hj => memGet_storeBytes_at wf inside hj, fun _ ha => memGet_storeBytes_outside wf inside ha⟩⟩

/-- Settles O53, from O52 on the power-on state: load keeps every item but memory, and puts the image where PC points. -/
theorem bootLeavesTheLaunchState : Obligations.BootLeavesTheLaunchState := by
  intro x rom fits
  obtain ⟨cfg, draws, resets⟩ := apply_reset x
  obtain ⟨t, loads, ⟨sameCfg, same⟩, stored⟩ := (loadCopiesTheImageOrRefusesIt (State.powerOn cfg draws) rom).2 fits
  obtain ⟨copied, kept⟩ := stored (powerOn_memWf cfg draws)
  have hpc : t.pc = 0x200 := same .pc (by decide)
  have hpcNat : t.pc.toNat = 0x200 := congrArg BitVec.toNat hpc
  have hwait : t.wait = none := same .wait (by decide)
  refine ⟨t, run_cons resets (run_cons loads rfl), hpcNat, fun k => ?regs, same .index (by decide), ?sp,
    same .delayTimer (by decide), same .soundTimer (by decide), fun c r => ?screen, fun k => ?keys, hwait, copied,
    fun a => ?font, fun a ha outside => ?zero, fun two => ?first⟩
  case regs => exact (same .regs (by decide) k).trans (powerOn_getV cfg draws k)
  case sp => exact congrArg Fin.val (same .stack (by decide)).1
  case screen => exact (same .screen (by decide) c r).trans (powerOn_pixel cfg draws c r)
  case keys => exact (same .keys (by decide) k).trans (powerOn_keyDown cfg draws k)
  case font => rw [kept a (by omega), powerOn_memGet_font, sameCfg]; rfl
  case zero => rw [kept a outside, powerOn_memGet_of_ge cfg draws ha]
  case first =>
    have fetches : t.fetch t.pc.toNat = .ok (rom.getD 0 0 ++ rom.getD 1 0) := by
      rw [hpcNat, fetch_eq, if_neg (by decide), ← copied 0 (by omega), ← copied 1 two]
    rw [step_of_fetch hwait fetches, State.advance, hpc]
    rfl

end Sys2Proof.Machine
end

section
/-! PROOF. The worked decodings (spec/30_encoding.md section 7), instances of the laws of the encoding. -/

namespace Sys2Proof

/-- Settles O5: a legal word is the encoding of its instruction, so it decodes by O1; an illegal word stands in its class's
line of the table of R71, so it decodes to nothing by O4. -/
theorem workedDecodingsOfTheSpec : Obligations.WorkedDecodingsOfTheSpec := by
  refine ⟨?ldKk, ?drw, ?shr, ?class5, ?class0, ?stRegs, ?classE⟩
  case ldKk => exact decodeWord_encode (.ldKk 0xA 0x3C) rfl
  case drw => exact decodeWord_encode (.drw 0 0 5) rfl
  case shr => exact decodeWord_encode (.shr 0xA 0xB) rfl
  case stRegs => exact decodeWord_encode (.stRegs 1) rfl
  case class5 | class0 | classE => exact (illegalWordsAreThoseOfTheClassTable _).2 (by decide)

end Sys2Proof
end
